-- ==== Sys2Proof/Word.lean ====
section
/-! DEFINITION. The word types of the CHIP-8 core: everything the spec treats as bits (R9, R10, R20).
Every value is unsigned; there is no sign extension anywhere (R10). -/

namespace Sys2Proof

/-- An 8-bit value: a general register, a memory cell, a timer, an immediate `kk` (R20, R73). -/
abbrev Byte := BitVec 8

/-- A 16-bit value: an opcode word, `I`, `PC`, a stack entry (R20, R72). -/
abbrev Word := BitVec 16

/-- The 12-bit immediate address `nnn` (R73). -/
abbrev Addr := BitVec 12

/-- The 4-bit field `n`, and the low nibble or `y` field that some instructions ignore (R73, R83). -/
abbrev Nibble := BitVec 4

/-- A general register number, 0..15, naming `V[x]`; every value names a distinct register (R21, R75). -/
abbrev Reg := Fin 16

/-- A key code, 0..15 (R160). -/
abbrev Key := Fin 16

/-- VF, the flag register, is `V[15]` (R22). -/
abbrev VF : Reg := 15

end Sys2Proof
end

