-- ==== Sys2Proof/Syntax.lean ====
section
/-! DEFINITION. The instructions: one constructor for each of the 34 rows of spec/opcode_table.json (R80), with the
fields its pattern names (R73). The two fields the spec ignores are kept as operands, so that an instruction and its
word determine each other (R81, R83). DESIGN CHOICE, safe, log entry 17. -/

namespace Sys2Proof

/-- The closed enumeration of instructions, in the table's order. -/
inductive Instr where
  /-- 00E0, `CLS` (R154). -/
  | cls
  /-- 00EE, `RET` (R104). -/
  | ret
  /-- 1nnn, `JP nnn` (R101). -/
  | jp (nnn : Addr)
  /-- 2nnn, `CALL nnn` (R102). -/
  | call (nnn : Addr)
  /-- 3xkk, `SE Vx, kk` (R105). -/
  | seByte (x : Reg) (kk : Byte)
  /-- 4xkk, `SNE Vx, kk` (R106). -/
  | sneByte (x : Reg) (kk : Byte)
  /-- 5xyN, `SE Vx, Vy`; the low nibble is ignored (R107, R81). -/
  | seReg (x y : Reg) (ign : Nibble)
  /-- 6xkk, `LD Vx, kk` (R121). -/
  | ldByte (x : Reg) (kk : Byte)
  /-- 7xkk, `ADD Vx, kk` (R122). -/
  | addByte (x : Reg) (kk : Byte)
  /-- 8xy0, `LD Vx, Vy` (R123). -/
  | ldReg (x y : Reg)
  /-- 8xy1, `OR Vx, Vy` (R124). -/
  | orReg (x y : Reg)
  /-- 8xy2, `AND Vx, Vy` (R125). -/
  | andReg (x y : Reg)
  /-- 8xy3, `XOR Vx, Vy` (R131). -/
  | xorReg (x y : Reg)
  /-- 8xy4, `ADD Vx, Vy` (R126). -/
  | addReg (x y : Reg)
  /-- 8xy5, `SUB Vx, Vy` (R127). -/
  | sub (x y : Reg)
  /-- 8xy6, `SHR Vx`; the `y` field is ignored (R128, R83). -/
  | shr (x : Reg) (ign : Nibble)
  /-- 8xy7, `SUBN Vx, Vy` (R129). -/
  | subn (x y : Reg)
  /-- 8xyE, `SHL Vx`; the `y` field is ignored (R130, R83). -/
  | shl (x : Reg) (ign : Nibble)
  /-- 9xyN, `SNE Vx, Vy`; the low nibble is ignored (R108, R81). -/
  | sneReg (x y : Reg) (ign : Nibble)
  /-- Annn, `LD I, nnn` (R141). -/
  | ldI (nnn : Addr)
  /-- Bnnn, `JP V0, nnn` (R103). -/
  | jpV0 (nnn : Addr)
  /-- Cxkk, `RND Vx, kk` (R133). -/
  | rnd (x : Reg) (kk : Byte)
  /-- Dxyn, `DRW Vx, Vy, n` (R153). -/
  | drw (x y : Reg) (n : Nibble)
  /-- Ex9E, `SKP Vx` (R161). -/
  | skp (x : Reg)
  /-- ExA1, `SKNP Vx` (R162). -/
  | sknp (x : Reg)
  /-- Fx07, `LD Vx, DT` (R165). -/
  | ldVxDT (x : Reg)
  /-- Fx0A, `LD Vx, K` (R163). -/
  | ldVxK (x : Reg)
  /-- Fx15, `LD DT, Vx` (R166). -/
  | ldDTVx (x : Reg)
  /-- Fx18, `LD ST, Vx` (R167). -/
  | ldSTVx (x : Reg)
  /-- Fx1E, `ADD I, Vx` (R142). -/
  | addI (x : Reg)
  /-- Fx29, `LD F, Vx` (R143). -/
  | ldF (x : Reg)
  /-- Fx33, `LD B, Vx` (R144). -/
  | ldB (x : Reg)
  /-- Fx55, `LD [I], Vx` (R145). -/
  | stRegs (x : Reg)
  /-- Fx65, `LD Vx, [I]` (R147). -/
  | ldRegs (x : Reg)
  deriving DecidableEq, Repr

end Sys2Proof
end

