-- ==== Sys2Proof/WellFormed.lean ====
section
/-! DEFINITION. Which instructions are in canonical form. Every operand's range is already in its type (R73, R75), so
the one check left is that an ignored field holds the value an assembler puts there (R81, R88). The other values of an
ignored field are legal words too (R81, R83): the decoder accepts them, they run the same, and no statement about
the machine takes this check as a premise. -/

namespace Sys2Proof

/-- The instruction is the one form an assembler emits: `SE Vx, Vy` and `SNE Vx, Vy` with low nibble 0, `SHR Vx` and
`SHL Vx` with `y` = 0; every other instruction has no unused field (R83, R88). -/
def Instr.wellFormed : Instr → Bool
  | .seReg _ _ ign => ign == 0
  | .sneReg _ _ ign => ign == 0
  | .shr _ ign => ign == 0
  | .shl _ ign => ign == 0
  | .cls | .ret | .jp _ | .call _ | .seByte _ _ | .sneByte _ _ | .ldByte _ _ | .addByte _ _ => true
  | .ldReg _ _ | .orReg _ _ | .andReg _ _ | .xorReg _ _ | .addReg _ _ | .sub _ _ | .subn _ _ => true
  | .ldI _ | .jpV0 _ | .rnd _ _ | .drw _ _ _ | .skp _ | .sknp _ | .ldVxDT _ | .ldVxK _ => true
  | .ldDTVx _ | .ldSTVx _ | .addI _ | .ldF _ | .ldB _ | .stRegs _ | .ldRegs _ => true

end Sys2Proof
end

