-- ==== Sys2Proof/Decode.lean ====
section
/-! DEFINITION. From bytes to instructions and back: the fields of a word (R73), decode (R76 to R79, R84), the encoder,
the opcode map as masks and matches (R80), and the table's own numbering of a word's bits. -/

namespace Sys2Proof

/-- Why the decoder rejects, by name. -/
inductive Rejection where
  /-- The word matches no row of the opcode map: the fatal UnknownOpcode(op) of R84 and R171. Raised by `decode`. -/
  | unknownOpcode (op : Word)
  /-- Fewer than the two bytes of an instruction were given (R72). Raised by `decodeBytes` alone; a fetch always
  offers two bytes or fails itself (R71). DESIGN CHOICE, safe, log entry 18. -/
  | truncated (have_ : Nat)
  deriving DecidableEq, Repr

/-! ### Fields of a word -/

/-- `fam` = bits 15 to 12 (R73). -/
def famOf (w : Word) : Nat := (w.extractLsb' 12 4).toNat

/-- `x` = bits 11 to 8 (R73). -/
def xOf (w : Word) : Reg := (w.extractLsb' 8 4).toFin

/-- `y` = bits 7 to 4 (R73). -/
def yOf (w : Word) : Reg := (w.extractLsb' 4 4).toFin

/-- `y` = bits 7 to 4 as plain bits, for the instructions that ignore it (R83). -/
def yBitsOf (w : Word) : Nibble := w.extractLsb' 4 4

/-- `n` = bits 3 to 0 (R73). -/
def nOf (w : Word) : Nibble := w.extractLsb' 0 4

/-- `kk` = bits 7 to 0 (R73). -/
def kkOf (w : Word) : Byte := w.extractLsb' 0 8

/-- `nnn` = bits 11 to 0 (R73). -/
def nnnOf (w : Word) : Addr := w.extractLsb' 0 12

/-! ### Decode -/

/-- Family 0x0: selected by the whole word (R77). -/
def decode0 (w : Word) : Except Rejection Instr :=
  if w = 0x00E0 then .ok .cls
  else if w = 0x00EE then .ok .ret
  else .error (.unknownOpcode w)

/-- Family 0x8: selected by the low nibble (R78). -/
def decode8 (w : Word) : Except Rejection Instr :=
  match (nOf w).toNat with
  | 0x0 => .ok (.ldReg (xOf w) (yOf w))
  | 0x1 => .ok (.orReg (xOf w) (yOf w))
  | 0x2 => .ok (.andReg (xOf w) (yOf w))
  | 0x3 => .ok (.xorReg (xOf w) (yOf w))
  | 0x4 => .ok (.addReg (xOf w) (yOf w))
  | 0x5 => .ok (.sub (xOf w) (yOf w))
  | 0x6 => .ok (.shr (xOf w) (yBitsOf w))
  | 0x7 => .ok (.subn (xOf w) (yOf w))
  | 0xE => .ok (.shl (xOf w) (yBitsOf w))
  | _ => .error (.unknownOpcode w)

/-- Family 0xE: selected by the low byte (R79). -/
def decodeE (w : Word) : Except Rejection Instr :=
  match (kkOf w).toNat with
  | 0x9E => .ok (.skp (xOf w))
  | 0xA1 => .ok (.sknp (xOf w))
  | _ => .error (.unknownOpcode w)

/-- Family 0xF: selected by the low byte (R79). -/
def decodeF (w : Word) : Except Rejection Instr :=
  match (kkOf w).toNat with
  | 0x07 => .ok (.ldVxDT (xOf w))
  | 0x0A => .ok (.ldVxK (xOf w))
  | 0x15 => .ok (.ldDTVx (xOf w))
  | 0x18 => .ok (.ldSTVx (xOf w))
  | 0x1E => .ok (.addI (xOf w))
  | 0x29 => .ok (.ldF (xOf w))
  | 0x33 => .ok (.ldB (xOf w))
  | 0x55 => .ok (.stRegs (xOf w))
  | 0x65 => .ok (.ldRegs (xOf w))
  | _ => .error (.unknownOpcode w)

/-- Decode: by family, with families 0x0, 0x8, 0xE and 0xF dispatched further on a selector (R76). The last arm is
family 0xF, the one value of the 4-bit field the arms before it leave. -/
def decode (w : Word) : Except Rejection Instr :=
  match famOf w with
  | 0x0 => decode0 w
  | 0x1 => .ok (.jp (nnnOf w))
  | 0x2 => .ok (.call (nnnOf w))
  | 0x3 => .ok (.seByte (xOf w) (kkOf w))
  | 0x4 => .ok (.sneByte (xOf w) (kkOf w))
  | 0x5 => .ok (.seReg (xOf w) (yOf w) (nOf w))
  | 0x6 => .ok (.ldByte (xOf w) (kkOf w))
  | 0x7 => .ok (.addByte (xOf w) (kkOf w))
  | 0x8 => decode8 w
  | 0x9 => .ok (.sneReg (xOf w) (yOf w) (nOf w))
  | 0xA => .ok (.ldI (nnnOf w))
  | 0xB => .ok (.jpV0 (nnnOf w))
  | 0xC => .ok (.rnd (xOf w) (kkOf w))
  | 0xD => .ok (.drw (xOf w) (yOf w) (nOf w))
  | 0xE => decodeE w
  | _ => decodeF w

/-- The word of two bytes, the byte at the lower address in bits 15 to 8 (R50). -/
def wordOfBytes (hi lo : Byte) : Word := hi ++ lo

/-- The byte of a word that lies at the lower address (R50). -/
def hiByte (w : Word) : Byte := w.extractLsb' 8 8

/-- The byte of a word that lies at the higher address (R50). -/
def loByte (w : Word) : Byte := w.extractLsb' 0 8

/-- Decode the first instruction of a byte sequence and return the rest (R50, R72). -/
def decodeBytes : List Byte → Except Rejection (Instr × List Byte)
  | hi :: lo :: rest =>
    match decode (wordOfBytes hi lo) with
    | .ok i => .ok (i, rest)
    | .error e => .error e
  | short => .error (.truncated short.length)

/-! ### Encode -/

/-- A word from its four nibbles `fam`, `x`, `y`, `n`, the formats FIXED, XYN (R74). -/
def wordOfNibbles (f x y n : Nat) : Word := BitVec.ofNat 16 (f * 4096 + x * 256 + y * 16 + n)

/-- A word from `fam`, `x` and the low byte, the formats XKK and XSS (R74). -/
def wordOfLowByte (f x kk : Nat) : Word := BitVec.ofNat 16 (f * 4096 + x * 256 + kk)

/-- A word from `fam` and `nnn`, the format NNN (R74). -/
def wordOfAddr (f nnn : Nat) : Word := BitVec.ofNat 16 (f * 4096 + nnn)

/-- The word of an instruction, from the patterns of the opcode map (R80). -/
def encode : Instr → Word
  | .cls => 0x00E0
  | .ret => 0x00EE
  | .jp nnn => wordOfAddr 0x1 nnn.toNat
  | .call nnn => wordOfAddr 0x2 nnn.toNat
  | .seByte x kk => wordOfLowByte 0x3 x kk.toNat
  | .sneByte x kk => wordOfLowByte 0x4 x kk.toNat
  | .seReg x y ign => wordOfNibbles 0x5 x y ign.toNat
  | .ldByte x kk => wordOfLowByte 0x6 x kk.toNat
  | .addByte x kk => wordOfLowByte 0x7 x kk.toNat
  | .ldReg x y => wordOfNibbles 0x8 x y 0x0
  | .orReg x y => wordOfNibbles 0x8 x y 0x1
  | .andReg x y => wordOfNibbles 0x8 x y 0x2
  | .xorReg x y => wordOfNibbles 0x8 x y 0x3
  | .addReg x y => wordOfNibbles 0x8 x y 0x4
  | .sub x y => wordOfNibbles 0x8 x y 0x5
  | .shr x ign => wordOfNibbles 0x8 x ign.toNat 0x6
  | .subn x y => wordOfNibbles 0x8 x y 0x7
  | .shl x ign => wordOfNibbles 0x8 x ign.toNat 0xE
  | .sneReg x y ign => wordOfNibbles 0x9 x y ign.toNat
  | .ldI nnn => wordOfAddr 0xA nnn.toNat
  | .jpV0 nnn => wordOfAddr 0xB nnn.toNat
  | .rnd x kk => wordOfLowByte 0xC x kk.toNat
  | .drw x y n => wordOfNibbles 0xD x y n.toNat
  | .skp x => wordOfLowByte 0xE x 0x9E
  | .sknp x => wordOfLowByte 0xE x 0xA1
  | .ldVxDT x => wordOfLowByte 0xF x 0x07
  | .ldVxK x => wordOfLowByte 0xF x 0x0A
  | .ldDTVx x => wordOfLowByte 0xF x 0x15
  | .ldSTVx x => wordOfLowByte 0xF x 0x18
  | .addI x => wordOfLowByte 0xF x 0x1E
  | .ldF x => wordOfLowByte 0xF x 0x29
  | .ldB x => wordOfLowByte 0xF x 0x33
  | .stRegs x => wordOfLowByte 0xF x 0x55
  | .ldRegs x => wordOfLowByte 0xF x 0x65

/-- The two bytes of an instruction as they lie in memory, lower address first (R50). -/
def encodeBytes (i : Instr) : List Byte := [hiByte (encode i), loByte (encode i)]

/-! ### The opcode map as masks and matches -/

/-- The mask and the match of an instruction's row (R80). -/
def rowOf : Instr → Word × Word
  | .cls => (0xFFFF, 0x00E0)
  | .ret => (0xFFFF, 0x00EE)
  | .jp _ => (0xF000, 0x1000)
  | .call _ => (0xF000, 0x2000)
  | .seByte _ _ => (0xF000, 0x3000)
  | .sneByte _ _ => (0xF000, 0x4000)
  | .seReg _ _ _ => (0xF000, 0x5000)
  | .ldByte _ _ => (0xF000, 0x6000)
  | .addByte _ _ => (0xF000, 0x7000)
  | .ldReg _ _ => (0xF00F, 0x8000)
  | .orReg _ _ => (0xF00F, 0x8001)
  | .andReg _ _ => (0xF00F, 0x8002)
  | .xorReg _ _ => (0xF00F, 0x8003)
  | .addReg _ _ => (0xF00F, 0x8004)
  | .sub _ _ => (0xF00F, 0x8005)
  | .shr _ _ => (0xF00F, 0x8006)
  | .subn _ _ => (0xF00F, 0x8007)
  | .shl _ _ => (0xF00F, 0x800E)
  | .sneReg _ _ _ => (0xF000, 0x9000)
  | .ldI _ => (0xF000, 0xA000)
  | .jpV0 _ => (0xF000, 0xB000)
  | .rnd _ _ => (0xF000, 0xC000)
  | .drw _ _ _ => (0xF000, 0xD000)
  | .skp _ => (0xF0FF, 0xE09E)
  | .sknp _ => (0xF0FF, 0xE0A1)
  | .ldVxDT _ => (0xF0FF, 0xF007)
  | .ldVxK _ => (0xF0FF, 0xF00A)
  | .ldDTVx _ => (0xF0FF, 0xF015)
  | .ldSTVx _ => (0xF0FF, 0xF018)
  | .addI _ => (0xF0FF, 0xF01E)
  | .ldF _ => (0xF0FF, 0xF029)
  | .ldB _ => (0xF0FF, 0xF033)
  | .stRegs _ => (0xF0FF, 0xF055)
  | .ldRegs _ => (0xF0FF, 0xF065)

/-- The 34 rows of the opcode map, in its order, as pairs of mask and match (R80). -/
def opcodeMap : List (Word × Word) :=
  [(0xFFFF, 0x00E0), (0xFFFF, 0x00EE), (0xF000, 0x1000), (0xF000, 0x2000), (0xF000, 0x3000), (0xF000, 0x4000),
   (0xF000, 0x5000), (0xF000, 0x6000), (0xF000, 0x7000)] ++
  [(0xF00F, 0x8000), (0xF00F, 0x8001), (0xF00F, 0x8002), (0xF00F, 0x8003), (0xF00F, 0x8004), (0xF00F, 0x8005),
   (0xF00F, 0x8006), (0xF00F, 0x8007), (0xF00F, 0x800E)] ++
  [(0xF000, 0x9000), (0xF000, 0xA000), (0xF000, 0xB000), (0xF000, 0xC000), (0xF000, 0xD000), (0xF0FF, 0xE09E),
   (0xF0FF, 0xE0A1)] ++
  [(0xF0FF, 0xF007), (0xF0FF, 0xF00A), (0xF0FF, 0xF015), (0xF0FF, 0xF018), (0xF0FF, 0xF01E), (0xF0FF, 0xF029),
   (0xF0FF, 0xF033), (0xF0FF, 0xF055), (0xF0FF, 0xF065)]

/-- The word matches a row: `w AND mask = match` (R80). -/
def matchesRow (w : Word) (row : Word × Word) : Bool := w &&& row.1 == row.2

/-! ### The table's numbering of bits -/

/-- The instruction word whose bits are `w` as spec/opcode_table.json numbers them; the bits above `nbits` are 0.
A word has 16 bits and bit 0 is its least significant (R9, R72). -/
def tableWord (nbits w : Nat) : Word := BitVec.ofNat 16 (w % 2 ^ nbits)

/-- The bytes of that word as they lie in memory, lower address first (R50). -/
def tableBytes (nbits w : Nat) : List Byte := [hiByte (tableWord nbits w), loByte (tableWord nbits w)]

/-- The instruction the decoder reads from a word of the opcode table. -/
def decodeTableWord (nbits w : Nat) : Option Instr :=
  match decodeBytes (tableBytes nbits w) with
  | .ok (i, _) => some i
  | .error _ => none

end Sys2Proof
end

