-- ==== Sys2Proof/Config.lean ====
section
/-! DEFINITION. The parameters of the hardware, one field for each row of R7's table, the font table (R30), and the
free values: environment inputs the spec leaves open, each an opaque constant with no body, so that nothing can be
proved of its value. Where a type or a literal elsewhere bears one of the widths and counts, Laws/Config.lean says
that it is the parameter's. -/

namespace Sys2Proof

/-- `MEM_SIZE`: bytes of memory, addresses 0 to 4095 (R7). -/
abbrev Config.memSize : Nat := 4096

/-- `NREG`: general registers V0 to VF (R7, R21). -/
abbrev Config.nreg : Nat := 16

/-- `REG_W`: bits per general register (R7, R21). -/
abbrev Config.regW : Nat := 8

/-- `I_W`: bits of the index register (R7, R23). -/
abbrev Config.iW : Nat := 16

/-- `PC_W`: bits of the program counter (R7, R24). -/
abbrev Config.pcW : Nat := 16

/-- `PROG_BASE`: load address and reset value of PC (R7). -/
abbrev Config.progBase : Nat := 0x200

/-- `FONT_BASE`: address of the font table (R7, R30). -/
abbrev Config.fontBase : Nat := 0x000

/-- `FONT_GLYPHS`: glyphs of the font, for the digits 0 to F (R7, R30). -/
abbrev Config.fontGlyphs : Nat := 16

/-- `FONT_STRIDE`: bytes per glyph (R7, R143). -/
abbrev Config.fontStride : Nat := 5

/-- `STACK_DEPTH`: entries of the call stack (R7, R25). -/
abbrev Config.stackDepth : Nat := 16

/-- `STACK_W`: bits per stack entry, a PC value (R7, R25). -/
abbrev Config.stackW : Nat := Config.pcW

/-- `TIMER_W`: bits of each of DT and ST (R7, R26, R27). -/
abbrev Config.timerW : Nat := 8

/-- `TICK_HZ`: nominal Frames, and so timer ticks, per second (R7). It appears in no rule (R212), so no definition
reads it: log entry 25. -/
abbrev Config.tickHz : Nat := 60

/-- `SPEED`: instruction slots per Frame (R7, R188). -/
abbrev Config.speed : Nat := 10

/-- `DISPLAY_W`: display grid columns (R7, R150). -/
abbrev Config.displayW : Nat := 64

/-- `DISPLAY_H`: display grid rows (R7, R150). -/
abbrev Config.displayH : Nat := 32

/-- `SPRITE_W`: pixels per sprite row (R7, R152). -/
abbrev Config.spriteW : Nat := 8

/-- `NKEYS`: keys of the input source, codes 0 to 15 (R7, R160). -/
abbrev Config.nkeys : Nat := 16

/-- `TICK_WHILE_PAUSED`: whether Frame ticks the timers in the key-wait state (R7, R187; 90_conflicts.md C1).
UNVERIFIED, unsafe, log entry 15. -/
def Config.tickWhilePaused : Bool := false

/-- `MAX_PROG`: the largest program, `MEM_SIZE - PROG_BASE` = 3584 bytes (R7, R185). -/
abbrev Config.maxProg : Nat := 3584

/-- `FONT`: the 80 font bytes at 0x000 to 0x04F, glyph by glyph, top row first (R30). Glyph 0 is the source
document's own; glyphs 1 to F stand in R30 'from general knowledge'. UNVERIFIED, unsafe, log entry 8. -/
def Config.font : List Byte :=
  [0xF0, 0x90, 0x90, 0x90, 0xF0] ++ [0x20, 0x60, 0x20, 0x20, 0x70] ++
  [0xF0, 0x10, 0xF0, 0x80, 0xF0] ++ [0xF0, 0x10, 0xF0, 0x10, 0xF0] ++
  [0x90, 0x90, 0xF0, 0x10, 0x10] ++ [0xF0, 0x80, 0xF0, 0x10, 0xF0] ++
  [0xF0, 0x80, 0xF0, 0x90, 0xF0] ++ [0xF0, 0x10, 0x20, 0x40, 0x40] ++
  [0xF0, 0x90, 0xF0, 0x90, 0xF0] ++ [0xF0, 0x90, 0xF0, 0x10, 0xF0] ++
  [0xF0, 0x90, 0xF0, 0x90, 0x90] ++ [0xE0, 0x90, 0xE0, 0x90, 0xE0] ++
  [0xF0, 0x80, 0x80, 0x80, 0xF0] ++ [0xE0, 0x90, 0x90, 0x90, 0xE0] ++
  [0xF0, 0x80, 0xF0, 0x80, 0xF0] ++ [0xF0, 0x80, 0xF0, 0x80, 0x80]

/-- Free value: the `n`-th environment draw read as a random byte, `Rand8()` (R14, R133). DESIGN CHOICE, safe,
log entry 3. -/
opaque Config.randByte : Nat → Byte

/-- Free value: the `n`-th environment draw read as the sixteen key levels `KEY[15:0]`, bit `k` set when key `k`
is held (R32, R160, R190). DESIGN CHOICE, safe, log entry 2. -/
opaque Config.keyLevels : Nat → BitVec 16

/-- Free value: the `n`-th environment draw read as the input source's move in the key wait: `some k` delivers
`KeyPress(k)`, `none` lets another Frame pass (R164, R190). DESIGN CHOICE, safe, log entry 4. -/
opaque Config.keyPress : Nat → Option Key

/-- `TONE_FREQ`: the frequency handed to the tone sink; OPEN in the spec (R7, R195). DESIGN CHOICE, safe,
log entry 23. -/
opaque Config.toneFreq : Nat

end Sys2Proof
end

