-- ==== Sys2Proof/Machine/State.lean ====
section
/-! DEFINITION. The state of the machine (R20), its fatal errors (R170), how a step can stop, and the state after
reset (R36). -/

namespace Sys2Proof.Machine

/-- The five fatal errors, each with the `info` it records (R170). -/
inductive FatalError where
  /-- Code 1, raised by decode: the word matches no row of the opcode map; records the word (R171). -/
  | unknownOpcode (op : Word)
  /-- Code 2, raised by 00EE with an empty stack (R172). -/
  | stackUnderflow
  /-- Code 3, raised by fetch, Fx33, Fx55, Fx65, Dxyn: an address above 4095; records the lowest one (R173). -/
  | memoryOutOfBounds (addr : Nat)
  /-- Code 4, raised by Load: more than 3584 bytes; records the length (R175). -/
  | programTooLarge (len : Nat)
  /-- Code 5, raised by 2nnn with a full stack; records the return address (R174). -/
  | stackOverflow (retAddr : Word)
  deriving DecidableEq, Repr

/-- The execution status (R28). -/
inductive Status where
  /-- Instruction steps are enabled (R70). -/
  | running
  /-- The key wait: the next key press goes to `V[t]` (R163, R164). -/
  | awaitingKey (t : Reg)
  /-- The absorbing state after a fatal error (R176, R177). -/
  | dead (e : FatalError)
  deriving DecidableEq, Repr

/-- Memory: cells at strictly rising addresses below 4096, none equal to the reset contents of its address; an
unlisted address reads as its reset contents. DESIGN CHOICE, safe, log entry 19. -/
abbrev Memory := List Host.Cell

/-- The display grid, one word per row, row 0 on top; bit `c` of a row is column `c`, column 0 on the left (R31).
DESIGN CHOICE, safe, log entry 20. -/
abbrev Grid := Vector (BitVec 64) 32

/-- The state: what the spec gives the core (R20), the collaborators' state its rules touch (R31, R32, R195), and
three counters of the model's own (`renders`, `slot`, `draws`). -/
structure State where
  /-- `V[0]` to `V[15]` (R21); `V[15]` is VF (R22). -/
  v : Vector Byte 16
  /-- The index register `I` (R23). -/
  idx : Word
  /-- The program counter (R24). -/
  pc : Word
  /-- The call stack `STK` (R25). -/
  stk : Vector Word 16
  /-- `SP`, the number of stack entries in use, 0..16 (R25). DESIGN CHOICE, safe, log entry 26. -/
  sp : Fin 17
  /-- The delay timer `DT` (R26). -/
  dt : Byte
  /-- The sound timer `ST` (R27). -/
  st : Byte
  /-- The execution status (R28). -/
  status : Status
  /-- `MEM` (R29). -/
  mem : Memory
  /-- The display grid `FB` (R31). -/
  fb : Grid
  /-- The held-key levels `KEY[15:0]` as last sampled (R32). DESIGN CHOICE, safe, log entry 2. -/
  key : BitVec 16
  /-- The level last given to the tone sink (R195). -/
  toneOn : Bool
  /-- How many render requests were made (R194). DESIGN CHOICE, safe, log entry 11. -/
  renders : Nat
  /-- How many slots of the current Frame are used (R188). DESIGN CHOICE, safe, log entry 1. -/
  slot : Nat
  /-- How many environment inputs were drawn; the index of the free values. DESIGN CHOICE, safe, log entry 5. -/
  draws : Nat
  deriving DecidableEq, Repr

/-- Why the machine stops. -/
inductive Fault where
  /-- Raised by `step`, and by nothing else, when `status` is Dead: no instruction step is enabled and a Frame does
  nothing, so the machine has halted with the error its status records (R177). Safe: the machine stops where the
  core is dead. Log entries 6 and 22. -/
  | dead (e : FatalError)
  deriving DecidableEq, Repr

/-- Why an instruction has no meaning. -/
inductive Refusal where
  /-- The instruction has no meaning in the model. Raised by no instruction: every arm of `exec` has a meaning.
  Safe: the machine would stop. -/
  | notModelled (mnemonic : String)
  deriving DecidableEq, Repr

/-- What a step or a meaning answers. -/
abbrev Result := Host.Outcome State Fault Refusal

/-- The state after reset (R36, R200). The zeros are R36's, the spec's decision D6 (UNVERIFIED, unsafe, log entry 7).
DESIGN CHOICE: `key` (log entry 10), `toneOn` (unsafe, log entry 9), `renders`, `slot` and `draws` (log entries 11,
1, 5). -/
def State.reset : State where
  v := Vector.replicate 16 0x00
  idx := 0x0000
  pc := BitVec.ofNat 16 Config.progBase
  stk := Vector.replicate 16 0x0000
  sp := 0
  dt := 0x00
  st := 0x00
  status := .running
  mem := []  -- nothing listed: every address reads as its reset contents
  fb := Vector.replicate 32 0
  key := 0x0000
  toneOn := false
  renders := 0
  slot := 0
  draws := 0

end Sys2Proof.Machine
end

