-- ==== Sys2Proof/Machine/Ops.lean ====
section
/-! DEFINITION. The named operations over memory, registers, stack and status: every read and write of the state goes
through them. Taking a fatal error, the machine's only exception, is `State.raise`; there is no return from one
(R176, R178). -/

namespace Sys2Proof.Machine

/-! ### Memory -/

/-- What a memory address reads as before anything is written there: the font from `FONT_BASE` = 0x000, and 0x00
above it (R30, R36, R58). UNVERIFIED, unsafe, log entries 7 and 8. -/
def Memory.unlisted (a : Nat) : Byte :=
  if Config.fontBase ≤ a then Config.font.getD (a - Config.fontBase) 0x00 else 0x00

/-- The byte at an address: the last one written there, or its reset contents (R55). -/
def Memory.read : Memory → Nat → Byte
  | [], a => Memory.unlisted a
  | (a', b) :: m, a => if a = a' then b else Memory.read m a

/-- The memory without the cells of one address. -/
def Memory.erase : Memory → Nat → Memory
  | [], _ => []
  | (a', b) :: m, a => if a' = a then Memory.erase m a else (a', b) :: Memory.erase m a

/-- The memory with one more cell, placed before the first cell of a higher address. -/
def Memory.insert : Memory → Nat → Byte → Memory
  | [], a, b => [(a, b)]
  | (a', b') :: m, a, b => if a < a' then (a, b) :: (a', b') :: m else (a', b') :: Memory.insert m a b

/-- Write one byte, keeping the cells in rising order and listing none that equals its reset contents (R55). -/
def Memory.write (m : Memory) (a : Nat) (b : Byte) : Memory :=
  if b = Memory.unlisted a then m.erase a else (m.erase a).insert a b

/-- Write bytes at consecutive addresses, the first at the lowest (R51). -/
def Memory.writeBytes : Memory → Nat → List Byte → Memory
  | m, _, [] => m
  | m, a, b :: bs => Memory.writeBytes (Memory.write m a b) (a + 1) bs

/-- The cells from `lo` on are in canonical form: addresses strictly rising, at least `lo` and below 4096, no cell
equal to the reset contents of its address. -/
def Memory.wfFrom : Nat → Memory → Bool
  | _, [] => true
  | lo, (a, b) :: m =>
    decide (lo ≤ a) && decide (a < Config.memSize) && decide (b ≠ Memory.unlisted a) && Memory.wfFrom (a + 1) m

/-- The memory is in its one canonical form. -/
def Memory.wf (m : Memory) : Bool := Memory.wfFrom 0 m

/-! ### One setter for each piece of state -/

/-- `V[x] <- b` (R21). -/
def State.writeV (s : State) (x : Reg) (b : Byte) : State := { s with v := s.v.set x b }

/-- Write the whole register file. -/
def State.setV (s : State) (vs : Vector Byte 16) : State := { s with v := vs }

/-- `I <- w` (R23). -/
def State.setI (s : State) (w : Word) : State := { s with idx := w }

/-- `PC <- w` (R24). -/
def State.setPC (s : State) (w : Word) : State := { s with pc := w }

/-- Write the call stack and its count (R25). -/
def State.setStack (s : State) (k : Vector Word 16) (n : Fin 17) : State := { s with stk := k, sp := n }

/-- `DT <- b` (R26). -/
def State.setDT (s : State) (b : Byte) : State := { s with dt := b }

/-- `ST <- b` (R27). -/
def State.setST (s : State) (b : Byte) : State := { s with st := b }

/-- `status <- x` (R28). -/
def State.setStatus (s : State) (x : Status) : State := { s with status := x }

/-- Write the memory. -/
def State.setMem (s : State) (m : Memory) : State := { s with mem := m }

/-- Write the display grid (R31). -/
def State.setFB (s : State) (g : Grid) : State := { s with fb := g }

/-- Write the held-key levels (R32). -/
def State.setKey (s : State) (k : BitVec 16) : State := { s with key := k }

/-- Address the tone sink and make one render request (R194, R195). -/
def State.setOutputs (s : State) (tone : Bool) : State := { s with toneOn := tone, renders := s.renders + 1 }

/-- Set the position in the Frame (log entry 1). -/
def State.setSlot (s : State) (n : Nat) : State := { s with slot := n }

/-- Count one environment draw (log entry 5). -/
def State.countDraw (s : State) : State := { s with draws := s.draws + 1 }

/-! ### Reading -/

/-- `V[x]` (R21). -/
def State.readV (s : State) (x : Reg) : Byte := s.v[x]

/-- `MEM[a]` (R29). -/
def State.readByte (s : State) (a : Nat) : Byte := s.mem.read a

/-- Pixel `FB[r][c]`, row `r` below 32, column `c` below 64 (R31). -/
def State.pixel (s : State) (r : Fin 32) (c : Fin 64) : Bool := s.fb[r].getLsbD c

/-- The paused output: `status` is AwaitingKey (R28, R193). -/
def State.paused (s : State) : Bool :=
  match s.status with
  | .awaitingKey _ => true
  | .running => false
  | .dead _ => false

/-! ### Fatal errors -/

/-- The numeric code of a fatal error (R170). -/
def FatalError.code : FatalError → Nat
  | .unknownOpcode _ => 1
  | .stackUnderflow => 2
  | .memoryOutOfBounds _ => 3
  | .programTooLarge _ => 4
  | .stackOverflow _ => 5

/-- Entry of a fatal error: `status <- Dead(cause, info)`, all other state as it is in `s`. Raised from the state
before the step, so that every effect of the step is discarded, the advance of PC included (R13, R176). DEDUCED,
safe, log entry 6. -/
def State.raise (s : State) (e : FatalError) : State := s.setStatus (.dead e)

/-- End an instruction that may fail: its own effect, or the fatal error taken from the state `s` before it (R13,
R176). -/
def State.commit (s : State) : Except FatalError State → Result
  | .ok t => .next t
  | .error e => .next (s.raise e)

/-- `MemRead(a, 1)` (R12). -/
def State.memRead (s : State) (a : Nat) : Except FatalError Byte :=
  if a < Config.memSize then .ok (s.readByte a) else .error (.memoryOutOfBounds a)

/-- Fetch the word at PC, big-endian; a failing byte raises MemoryOutOfBounds at its address, the first byte first
(R71, R180). -/
def State.fetch (s : State) : Except FatalError Word :=
  match s.memRead s.pc.toNat with
  | .error e => .error e
  | .ok hi =>
    match s.memRead (s.pc.toNat + 1) with
    | .error e => .error e
    | .ok lo => .ok (wordOfBytes hi lo)

/-! ### Program counter -/

/-- The advance of PC at fetch: `PC <- (PC + 2) mod 65536` (R71). Each meaning makes it, so that an error keeps the
address of the failing instruction (R176). -/
def State.advance (s : State) : State := s.setPC (s.pc + 2)

/-- The advance at fetch and then, if `c`, a skip: `PC <- (PC + 2) mod 65536` once more (R100). -/
def State.skipIf (s : State) (c : Bool) : State := s.setPC (if c then s.pc + 2 + 2 else s.pc + 2)

/-! ### Call stack -/

/-- `Push(w)` (R25). -/
def State.push (s : State) (w : Word) : Except FatalError State :=
  if h : s.sp.val < Config.stackDepth then
    .ok (s.setStack (s.stk.set s.sp.val w h) ⟨s.sp.val + 1, Nat.succ_lt_succ h⟩)
  else .error (.stackOverflow w)

/-- `Pop()`: the entry and the state after (R25). -/
def State.pop (s : State) : Except FatalError (Word × State) :=
  match s.sp with
  | ⟨0, _⟩ => .error .stackUnderflow
  | ⟨n + 1, h⟩ => .ok (s.stk[n], s.setStack s.stk ⟨n, Nat.lt_of_succ_lt h⟩)

/-! ### Inputs -/

/-- `Rand8()`: a fresh byte from the environment, and the draw counted (R14, R133). -/
def State.rand8 (s : State) : Byte × State := (Config.randByte s.draws, s.countDraw)

/-- Sample the sixteen key levels afresh from the environment, and count the draw (R160, R190). -/
def State.sampleKeys (s : State) : State := (s.setKey (Config.keyLevels s.draws)).countDraw

/-- `(vx <= 15) and KeyHeld(vx)`, with `NKEYS` = 16 keys of codes 0 to 15 (R160, R161). -/
def State.keyHeld (s : State) (k : Byte) : Bool := decide (k.toNat < Config.nkeys) && s.key.getLsbD k.toNat

end Sys2Proof.Machine
end

