-- ==== Sys2Proof/Machine/Flags.lean ====
section
/-! DEFINITION. Every flag the machine computes; the value written to VF is 0x00 or 0x01 (R22). -/

namespace Sys2Proof.Machine

/-- A condition as the 8-bit number 0x01 or 0x00 (R22). -/
def flagOf (c : Bool) : Byte := if c then 0x01 else 0x00

/-- The carry of 8xy4: 1 when the unbounded sum exceeds 255 (R126). -/
def carryFlag (a b : Byte) : Byte := flagOf (decide (a.toNat + b.toNat > 255))

/-- The flag of 8xy5 and, with the operands exchanged, of 8xy7: 1 when `a` is strictly greater than `b` (R127,
R129). -/
def greaterFlag (a b : Byte) : Byte := flagOf (decide (a.toNat > b.toNat))

/-- The flag of 8xy6: bit 0 before the shift (R128). -/
def lowBitFlag (a : Byte) : Byte := flagOf (a.getLsbD 0)

/-- The flag of 8xyE: bit 7 before the shift, as 0 or 1 (R130). -/
def highBitFlag (a : Byte) : Byte := flagOf (a.getLsbD 7)

end Sys2Proof.Machine
end

