-- ==== Sys2Proof/Machine/Operands.lean ====
section
/-! DEFINITION. The operand forms: immediates (R75), the register results and their write order (R120), the one
addressing mode `I + i` with its range check (R140, R57), and the decimal digits (R144). -/

namespace Sys2Proof.Machine

/-- `zext_16(nnn)` (R10, R75). -/
def zext16OfAddr (nnn : Addr) : Word := nnn.setWidth 16

/-- `zext_16(v)` of a byte (R10). -/
def zext16OfByte (b : Byte) : Word := b.setWidth 16

/-- Write a result to `V[x]` and advance PC (R71, R120). -/
def State.result (s : State) (x : Reg) (b : Byte) : State := (s.writeV x b).advance

/-- Write the flag to VF first and the result to `V[x]` second, and advance PC: with `x` = 15 the result stands and
the flag is lost (R71, R120). -/
def State.flaggedResult (s : State) (x : Reg) (flag b : Byte) : State := ((s.writeV VF flag).writeV x b).advance

/-- The range check of an instruction that touches `len` bytes from `I`: none when `len` = 0; otherwise the last
address must not pass 4095, and the address recorded is the lowest one above 4095 (R57). -/
def State.rangeError (s : State) (len : Nat) : Option FatalError :=
  if 1 ≤ len ∧ s.idx.toNat + len - 1 > 4095 then some (.memoryOutOfBounds (max s.idx.toNat 4096)) else none

/-- The `len` bytes from `I`, lowest address first, after the range check (R57, R140). -/
def State.loadAtI (s : State) (len : Nat) : Except FatalError (List Byte) :=
  match s.rangeError len with
  | some e => .error e
  | none => .ok ((List.range len).map fun k => s.readByte (s.idx.toNat + k))

/-- Store bytes from `I` upward, after the range check (R57, R140). -/
def State.storeAtI (s : State) (bs : List Byte) : Except FatalError State :=
  match s.rangeError bs.length with
  | some e => .error e
  | none => .ok (s.setMem (s.mem.writeBytes s.idx.toNat bs))

/-- The registers `V[0]` to `V[x-1]` in order, `x` excluded (R145, R146). -/
def State.firstRegs (s : State) (x : Reg) : List Byte := s.v.toList.take x.val

/-- Write bytes to `V[0]`, `V[1]`, ... in order; the registers beyond the bytes keep their values (R147). -/
def State.writeFirstRegs (s : State) (bs : List Byte) : State :=
  s.setV (Vector.ofFn fun j : Fin 16 => bs.getD j.val s.v[j])

/-- The three decimal digits of a byte, hundreds, tens, ones, one per byte (R144). -/
def bcdDigits (b : Byte) : List Byte :=
  [BitVec.ofNat 8 (b.toNat / 100), BitVec.ofNat 8 (b.toNat % 100 / 10), BitVec.ofNat 8 (b.toNat % 10)]

/-- The address of the glyph of a byte, `zext_16(vx) * 5`, not masked (R143). -/
def glyphAddr (b : Byte) : Word := BitVec.ofNat 16 (b.toNat * Config.fontStride)

end Sys2Proof.Machine
end

