-- ==== Sys2Proof/Machine/Alu.lean ====
section
/-! DEFINITION. Register and ALU instructions: 6xkk, 7xkk, 8xy0 to 8xy7, 8xyE, Cxkk (R120 to R133). Every operand is
read from the state before the step, and VF is written before `V[x]` (R120). -/

namespace Sys2Proof.Machine

/-- 6xkk: `V[x] <- kk` (R121). -/
def execLdByte (x : Reg) (kk : Byte) (s : State) : Result := .next (s.result x kk)

/-- 7xkk: `V[x] <- (vx + kk) mod 256`, no flag (R122). -/
def execAddByte (x : Reg) (kk : Byte) (s : State) : Result := .next (s.result x (s.readV x + kk))

/-- 8xy0: `V[x] <- vy` (R123). -/
def execLdReg (x y : Reg) (s : State) : Result := .next (s.result x (s.readV y))

/-- 8xy1: `V[x] <- vx OR vy`, no flag (R124). -/
def execOrReg (x y : Reg) (s : State) : Result := .next (s.result x (s.readV x ||| s.readV y))

/-- 8xy2: `V[x] <- vx AND vy`, no flag (R125). -/
def execAndReg (x y : Reg) (s : State) : Result := .next (s.result x (s.readV x &&& s.readV y))

/-- 8xy3: `V[x] <- vx XOR vy`, no flag (R131). -/
def execXorReg (x y : Reg) (s : State) : Result := .next (s.result x (s.readV x ^^^ s.readV y))

/-- 8xy4: VF is the carry out, `V[x]` the sum modulo 256 (R126). -/
def execAddReg (x y : Reg) (s : State) : Result :=
  .next (s.flaggedResult x (carryFlag (s.readV x) (s.readV y)) (s.readV x + s.readV y))

/-- 8xy5: VF is 1 when `vx > vy`, `V[x]` the difference modulo 256 (R127). -/
def execSub (x y : Reg) (s : State) : Result :=
  .next (s.flaggedResult x (greaterFlag (s.readV x) (s.readV y)) (s.readV x - s.readV y))

/-- 8xy6: VF is bit 0 of `vx`, `V[x]` is `vx` shifted right by one; `y` is ignored (R128, R83). -/
def execShr (x : Reg) (s : State) : Result :=
  .next (s.flaggedResult x (lowBitFlag (s.readV x)) (s.readV x >>> 1))

/-- 8xy7: VF is 1 when `vy > vx`, `V[x]` is `vy - vx` modulo 256 (R129). -/
def execSubn (x y : Reg) (s : State) : Result :=
  .next (s.flaggedResult x (greaterFlag (s.readV y) (s.readV x)) (s.readV y - s.readV x))

/-- 8xyE: VF is bit 7 of `vx`, `V[x]` is `vx` shifted left by one; `y` is ignored (R130, R83). -/
def execShl (x : Reg) (s : State) : Result :=
  .next (s.flaggedResult x (highBitFlag (s.readV x)) (s.readV x <<< 1))

/-- Cxkk: `V[x] <- Rand8() AND kk` (R133). -/
def execRnd (x : Reg) (kk : Byte) (s : State) : Result := .next (s.rand8.2.result x (s.rand8.1 &&& kk))

end Sys2Proof.Machine
end

