-- ==== Sys2Proof/Machine/Control.lean ====
section
/-! DEFINITION. Control flow: 00EE, 1nnn, 2nnn, Bnnn, 3xkk, 4xkk, 5xyN, 9xyN (R100 to R108). In every meaning `s` is
the state before the step, so `s.pc` is the address the instruction was fetched from. -/

namespace Sys2Proof.Machine

/-- 00EE: `PC <- Pop()` (R104). -/
def execRet (s : State) : Result :=
  s.commit (match s.pop with
    | .ok (w, t) => .ok (t.setPC w)
    | .error e => .error e)

/-- 1nnn: `PC <- zext_16(nnn)` (R101). -/
def execJp (nnn : Addr) (s : State) : Result := .next (s.setPC (zext16OfAddr nnn))

/-- 2nnn: push the address of the next instruction, then jump (R102). -/
def execCall (nnn : Addr) (s : State) : Result :=
  s.commit (match s.push (s.pc + 2) with
    | .ok t => .ok (t.setPC (zext16OfAddr nnn))
    | .error e => .error e)

/-- 3xkk: skip if `V[x] = kk` (R105). -/
def execSeByte (x : Reg) (kk : Byte) (s : State) : Result := .next (s.skipIf (s.readV x == kk))

/-- 4xkk: skip if `V[x] != kk` (R106). -/
def execSneByte (x : Reg) (kk : Byte) (s : State) : Result := .next (s.skipIf (s.readV x != kk))

/-- 5xyN: skip if `V[x] = V[y]`, whatever the low nibble (R107, R81). -/
def execSeReg (x y : Reg) (s : State) : Result := .next (s.skipIf (s.readV x == s.readV y))

/-- 9xyN: skip if `V[x] != V[y]`, whatever the low nibble (R108, R81). -/
def execSneReg (x y : Reg) (s : State) : Result := .next (s.skipIf (s.readV x != s.readV y))

/-- Bnnn: `PC <- (zext_16(nnn) + zext_16(V[0])) mod 65536` (R103). -/
def execJpV0 (nnn : Addr) (s : State) : Result :=
  .next (s.setPC (zext16OfAddr nnn + zext16OfByte (s.readV 0)))

end Sys2Proof.Machine
end

