-- ==== Sys2Proof/Machine/Display.lean ====
section
/-! DEFINITION. The display surface's contract (R150, R151), sprites (R152) and the display instructions 00E0 and Dxyn
(R153, R154). -/

namespace Sys2Proof.Machine

/-- `SetPixel(c, r)`: toggle the pixel at the coordinates modulo the grid's size, and answer whether it was set and
is now clear (R150). -/
def setPixel (g : Grid) (c r : Nat) : Grid × Bool :=
  have h : r % Config.displayH < 32 := Nat.mod_lt _ (by decide)
  (g.set (r % Config.displayH) (g[r % Config.displayH] ^^^ BitVec.twoPow 64 (c % Config.displayW)) h,
    g[r % Config.displayH].getLsbD (c % Config.displayW))

/-- `ClearDisplay()`: every pixel clear (R151). -/
def clearGrid : Grid := Vector.replicate 32 0

/-- The columns from `col` on of one sprite row: a set bit `7 - col` toggles the pixel at column offset `col`, a
clear bit makes no call; a collision is remembered (R152, R153). -/
def drawCols (b : Byte) (vx r : Nat) : List Nat → Grid × Bool → Grid × Bool
  | [], p => p
  | col :: cols, p =>
    drawCols b vx r cols
      (if b.getLsbD (7 - col) then ((setPixel p.1 (vx + col) r).1, p.2 || (setPixel p.1 (vx + col) r).2) else p)

/-- One sprite row at row `r`, its eight columns in order (R152). -/
def drawRow (b : Byte) (vx r : Nat) (p : Grid × Bool) : Grid × Bool :=
  drawCols b vx r (List.range Config.spriteW) p

/-- The rows of a sprite, top row first, the first at row `r` (R152, R153). -/
def drawRows (vx : Nat) : Nat → List Byte → Grid × Bool → Grid × Bool
  | _, [], p => p
  | r, b :: bs, p => drawRows vx (r + 1) bs (drawRow b vx r p)

/-- 00E0: `ClearDisplay()` (R154). -/
def execCls (s : State) : Result := .next ((s.setFB clearGrid).advance)

/-- Dxyn: draw the `n` rows at `MEM[I]` with the left top at column `V[x]`, row `V[y]`, and write the collision to
VF after the last pixel (R153). DEDUCED, safe, log entry 27. -/
def execDrw (x y : Reg) (n : Nibble) (s : State) : Result :=
  s.commit (match s.loadAtI n.toNat with
    | .ok rows =>
      .ok ((s.setFB (drawRows (s.readV x).toNat (s.readV y).toNat rows (s.fb, false)).1).result VF
        (flagOf (drawRows (s.readV x).toNat (s.readV y).toNat rows (s.fb, false)).2))
    | .error e => .error e)

end Sys2Proof.Machine
end

