-- ==== Sys2Proof/Machine/IndexMemory.lean ====
section
/-! DEFINITION. The index register and memory: Annn, Fx1E, Fx29, Fx33, Fx55, Fx65 (R140 to R147). No instruction
changes `I` by accessing memory (R140, R146). -/

namespace Sys2Proof.Machine

/-- Annn: `I <- zext_16(nnn)` (R141). -/
def execLdI (nnn : Addr) (s : State) : Result := .next ((s.setI (zext16OfAddr nnn)).advance)

/-- Fx1E: `I <- (I + zext_16(vx)) mod 65536`, no flag and no error (R142). -/
def execAddI (x : Reg) (s : State) : Result := .next ((s.setI (s.idx + zext16OfByte (s.readV x))).advance)

/-- Fx29: `I <- zext_16(vx) * 5` (R143). -/
def execLdF (x : Reg) (s : State) : Result := .next ((s.setI (glyphAddr (s.readV x))).advance)

/-- Fx33: the decimal digits of `V[x]` to `MEM[I]`, `MEM[I+1]`, `MEM[I+2]` (R144). -/
def execLdB (x : Reg) (s : State) : Result :=
  s.commit (match s.storeAtI (bcdDigits (s.readV x)) with
    | .ok t => .ok t.advance
    | .error e => .error e)

/-- Fx55: `V[0]` to `V[x-1]` to memory from `I`; `V[x]` is not stored and `I` is unchanged (R145, R146). -/
def execStRegs (x : Reg) (s : State) : Result :=
  s.commit (match s.storeAtI (s.firstRegs x) with
    | .ok t => .ok t.advance
    | .error e => .error e)

/-- Fx65: memory from `I` to `V[0]` to `V[x-1]`; `V[x]` is not loaded and `I` is unchanged (R147, R146). -/
def execLdRegs (x : Reg) (s : State) : Result :=
  s.commit (match s.loadAtI x.val with
    | .ok bs => .ok (s.writeFirstRegs bs).advance
    | .error e => .error e)

end Sys2Proof.Machine
end

