-- ==== Sys2Proof/Machine/KeypadTimers.lean ====
section
/-! DEFINITION. Keypad and timer instructions: Ex9E, ExA1, Fx0A, Fx07, Fx15, Fx18 (R160 to R168). -/

namespace Sys2Proof.Machine

/-- Ex9E: skip if the key whose code is in `V[x]` is held; no key has a code above 15 (R161). -/
def execSkp (x : Reg) (s : State) : Result := .next (s.skipIf (s.keyHeld (s.readV x)))

/-- ExA1: skip if the key whose code is in `V[x]` is not held (R162). -/
def execSknp (x : Reg) (s : State) : Result := .next (s.skipIf (!s.keyHeld (s.readV x)))

/-- Fx07: `V[x] <- DT` (R165). -/
def execLdVxDT (x : Reg) (s : State) : Result := .next (s.result x s.dt)

/-- Fx0A: `status <- AwaitingKey(x)` (R163). -/
def execLdVxK (x : Reg) (s : State) : Result := .next ((s.setStatus (.awaitingKey x)).advance)

/-- Fx15: `DT <- vx` (R166). -/
def execLdDTVx (x : Reg) (s : State) : Result := .next ((s.setDT (s.readV x)).advance)

/-- Fx18: `ST <- vx` (R167). -/
def execLdSTVx (x : Reg) (s : State) : Result := .next ((s.setST (s.readV x)).advance)

end Sys2Proof.Machine
end

