-- ==== Sys2Proof/Machine/Events.lean ====
section
/-! DEFINITION. The events of the machine other than an instruction step: the timer tick (R186), the end of a Frame
with its outputs (R188, R194, R195), the key press (R164), and Load (R185). -/

namespace Sys2Proof.Machine

/-- One timer, one tick: down by one, floored at zero (R186). -/
def countDown (b : Byte) : Byte := if b.toNat > 0 then b - 1 else b

/-- `TimerTick()` (R186). -/
def State.timerTick (s : State) : State :=
  match s.status with
  | .dead _ => s
  | .running => (s.setDT (countDown s.dt)).setST (countDown s.st)
  | .awaitingKey _ => (s.setDT (countDown s.dt)).setST (countDown s.st)

/-- The end of a Frame that is not abandoned: the tick when the core is Running or `tick` (TICK_WHILE_PAUSED) holds,
then the tone level `ST > 0` and the render request (R188, R194, R195). -/
def State.endFrameWith (tick : Bool) (s : State) : State :=
  let t := if s.status == .running || tick then s.timerTick else s
  t.setOutputs (decide (t.st.toNat > 0))

/-- The end of a Frame of this hardware (R187, R188). -/
def State.endFrame (s : State) : State := s.endFrameWith Config.tickWhilePaused

/-- `KeyPress(k)`: ends a key wait and is ignored otherwise (R164). -/
def State.keyPress (s : State) (k : Key) : State :=
  match s.status with
  | .awaitingKey t => (s.writeV t (BitVec.ofNat 8 k.val)).setStatus .running
  | .running => s
  | .dead _ => s

/-- `Load(bytes)`: ignored when Dead, rejected when it does not fit, else the bytes from 0x200 upward (R185). No move of
`step`: DEDUCED, safe, log entry 14. -/
def State.load (s : State) (bytes : List Byte) : State :=
  match s.status with
  | .dead _ => s
  | .running =>
    if bytes.length > Config.maxProg then s.raise (.programTooLarge bytes.length)
    else s.setMem (s.mem.writeBytes Config.progBase bytes)
  | .awaitingKey _ =>
    if bytes.length > Config.maxProg then s.raise (.programTooLarge bytes.length)
    else s.setMem (s.mem.writeBytes Config.progBase bytes)

/-- `Reset`, from any state, Dead included: a fresh instance; the held keys are the environment's and the count of
environment draws goes on (R200, R201, R177). DESIGN CHOICE, safe, log entry 24. -/
def State.restart (s : State) : State := { State.reset with key := s.key, draws := s.draws }

/-- The boot sequence up to the first Frame: Reset, then one Load (R202). -/
def State.boot (bytes : List Byte) : State := State.reset.load bytes

/-- What the tone sink is told: `play(frequency)` or `stop()` (R195). -/
inductive ToneCommand where
  /-- Sound at the given frequency. -/
  | play (freq : Nat)
  /-- Silence. -/
  | stop
  deriving DecidableEq, Repr

/-- The command that stands at the tone sink (R195). -/
def State.toneCommand (s : State) : ToneCommand := if s.toneOn then .play Config.toneFreq else .stop

end Sys2Proof.Machine
end

