-- ==== Sys2Proof/Machine/Run.lean ====
section
/-! DEFINITION. The instruction step (R70), the Frame as the spec writes it (R188), and the same Frame slot by slot,
which is what `step` runs. -/

namespace Sys2Proof.Machine

/-- What stands after an execute phase: its state, or, when it raised a fatal error, the state before the step with
`status` Dead, so that nothing of the step remains (R176). -/
def State.settle (s : State) : Result → Result
  | .next t =>
    match t.status with
    | .dead e => .next (s.raise e)
    | .running => .next t
    | .awaitingKey _ => .next t
  | .fault r => .fault r
  | .refused r => .refused r

/-- One instruction step: fetch, decode, execute, with the key levels sampled afresh for it (R70, R71, R76, R160,
R190). -/
def State.instrStep (s : State) : Result :=
  match s.fetch with
  | .error e => .next (s.raise e)
  | .ok w =>
    match decode w with
    | .error _ => .next (s.raise (.unknownOpcode w))
    | .ok i => s.settle (exec i s.sampleKeys)

/-- The slots of a Frame: an instruction step in each slot that finds the core Running, nothing in the others; once
Dead, nothing more (R188). -/
def State.frameSlots : Nat → State → Result
  | 0, s => .next s
  | n + 1, s =>
    match s.status with
    | .running =>
      match s.instrStep with
      | .next t => State.frameSlots n t
      | .fault r => .fault r
      | .refused r => .refused r
    | .awaitingKey _ => State.frameSlots n s
    | .dead _ => .next s

/-- `Frame()`: nothing when Dead; SPEED slots; abandoned when one of them kills the core; else the tick and the
outputs (R188). -/
def State.frame (s : State) : Result :=
  match State.frameSlots Config.speed s with
  | .next t =>
    match t.status with
    | .dead _ => .next t
    | .running => .next t.endFrame
    | .awaitingKey _ => .next t.endFrame
  | .fault r => .fault r
  | .refused r => .refused r

/-- After an instruction step: a Running core goes to the next slot, or ends the Frame after its last slot; a core
that now waits for a key leaves the remaining slots empty and ends the Frame; a Dead one abandons it (R188). -/
def State.closeSlot (t : State) : State :=
  match t.status with
  | .dead _ => t
  | .running => if t.slot + 1 < Config.speed then t.setSlot (t.slot + 1) else t.endFrame.setSlot 0
  | .awaitingKey _ => t.endFrame.setSlot 0

/-- One slot of a Frame of a Running core (R188). -/
def State.slotStep (s : State) : Result :=
  match s.instrStep with
  | .next t => .next t.closeSlot
  | .fault r => .fault r
  | .refused r => .refused r

/-- One event of the key wait: the environment delivers `KeyPress(k)`, or one more Frame passes with every slot empty
(R164, R188, R190, R191). -/
def State.waitStep (s : State) : State :=
  match Config.keyPress s.draws with
  | some k => s.countDraw.keyPress k
  | none => s.countDraw.endFrame

end Sys2Proof.Machine
end

