-- ==== Sys2Proof/Machine/Step.lean ====
section
/-! DEFINITION. The step, and the placing of one word where the step fetches. -/

namespace Sys2Proof.Machine

/-- One step of the machine: an instruction slot of a Frame when Running (R70, R188); an event of the key wait when
AwaitingKey (R164, R191); a fault when Dead (R177). Log entries 1, 4 and 6. -/
def step (s : State) : Host.Outcome State Fault Refusal :=
  match s.status with
  | .running => s.slotStep
  | .awaitingKey _ => .next s.waitStep
  | .dead e => .fault (.dead e)

/-- The instruction word `w` (bits above `nbits` zero) stored big-endian at PC, `status` Running, so that the next
step runs it. PC is kept where a fetch can succeed and is 0x200 otherwise. DESIGN CHOICE, safe, log entries 12
and 13. -/
def State.withFetchWord (s : State) (nbits w : Nat) : State :=
  let a := if s.pc.toNat + 1 < Config.memSize then s.pc else BitVec.ofNat 16 Config.progBase
  ((s.setPC a).setStatus .running).setMem (s.mem.writeBytes a.toNat (tableBytes nbits w))

end Sys2Proof.Machine
end

