-- ==== Sys2Proof/Safety.lean ====
section
/-! DEFINITION. What the claims speak of: what an instruction leaves alone (its frame), which instructions write the
flag, where PC goes (R24), and the invariant of a safe run. -/

namespace Sys2Proof

/-! ### Which instruction does what -/

/-- The six instructions that write VF as a side effect (R22). -/
def Instr.writesFlag : Instr → Bool
  | .addReg _ _ | .sub _ _ | .shr _ _ | .subn _ _ | .shl _ _ | .drw _ _ _ => true
  | .cls | .ret | .jp _ | .call _ | .seByte _ _ | .sneByte _ _ | .seReg _ _ _ | .ldByte _ _ | .addByte _ _ => false
  | .ldReg _ _ | .orReg _ _ | .andReg _ _ | .xorReg _ _ | .sneReg _ _ _ | .ldI _ | .jpV0 _ | .rnd _ _ => false
  | .skp _ | .sknp _ | .ldVxDT _ | .ldVxK _ | .ldDTVx _ | .ldSTVx _ | .addI _ | .ldF _ | .ldB _ => false
  | .stRegs _ | .ldRegs _ => false

/-- The register an instruction names as its destination `x`, where it has one (R37, column 'writes'). -/
def Instr.dest : Instr → Option Reg
  | .ldByte x _ | .addByte x _ | .ldReg x _ | .orReg x _ | .andReg x _ | .xorReg x _ => some x
  | .addReg x _ | .sub x _ | .shr x _ | .subn x _ | .shl x _ | .rnd x _ | .ldVxDT x => some x
  | .cls | .ret | .jp _ | .call _ | .seByte _ _ | .sneByte _ _ | .seReg _ _ _ | .sneReg _ _ _ | .ldI _ => none
  | .jpV0 _ | .drw _ _ _ | .skp _ | .sknp _ | .ldVxK _ | .ldDTVx _ | .ldSTVx _ | .addI _ | .ldF _ => none
  | .ldB _ | .stRegs _ | .ldRegs _ => none

end Sys2Proof

namespace Sys2Proof.Machine

/-! ### Frames -/

/-- Nothing but PC differs: every register, special register, stack entry, timer, pixel and byte of memory is as
before. -/
def OnlyPc (s t : State) : Prop :=
  { t with pc := s.pc } = s ∧ ∀ a, t.readByte a = s.readByte a

/-- Nothing but PC and the general registers listed differs. -/
def OnlyPcAndRegs (xs : List Reg) (s t : State) : Prop :=
  { t with pc := s.pc, v := s.v } = s ∧ (∀ r, r ∉ xs → t.readV r = s.readV r) ∧ ∀ a, t.readByte a = s.readByte a

/-- Nothing but PC and `I` differs. -/
def OnlyPcAndI (s t : State) : Prop :=
  { t with pc := s.pc, idx := s.idx } = s ∧ ∀ a, t.readByte a = s.readByte a

/-- Nothing but PC and the `len` bytes of memory from address `base` differs. -/
def OnlyPcAndBytes (base len : Nat) (s t : State) : Prop :=
  { t with pc := s.pc, mem := s.mem } = s ∧
    ∀ a, ¬(base ≤ a ∧ a < base + len) → t.readByte a = s.readByte a

/-- The fatal error `e` was taken: `status` records it and nothing else differs, PC included (R176). That the two
outputs `toneOn` and `renders` stay too is the model's choice, log entry 22. -/
def Died (e : FatalError) (s t : State) : Prop := t.status = .dead e ∧ { t with status := s.status } = s

/-- `status` is not Dead. -/
def State.alive (s : State) : Bool :=
  match s.status with
  | .dead _ => false
  | .running => true
  | .awaitingKey _ => true

/-! ### Where PC goes -/

/-- Where PC goes when the instruction at `s.pc` does not raise an error: the table of R24, with the skip conditions of
R105 to R108, R161, R162 and the popped entry of R25. -/
def pcAfter (i : Instr) (s : State) : Nat :=
  let a := s.pc.toNat
  let skip (c : Bool) : Nat := if c then (a + 4) % 65536 else (a + 2) % 65536
  match i with
  | .jp nnn => nnn.toNat
  | .call nnn => nnn.toNat
  | .jpV0 nnn => nnn.toNat + (s.readV 0).toNat
  | .ret => ((s.stk.toList.take s.sp.val).getLastD 0).toNat
  | .seByte x kk => skip (decide ((s.readV x).toNat = kk.toNat))
  | .sneByte x kk => skip (decide ((s.readV x).toNat ≠ kk.toNat))
  | .seReg x y _ => skip (decide ((s.readV x).toNat = (s.readV y).toNat))
  | .sneReg x y _ => skip (decide ((s.readV x).toNat ≠ (s.readV y).toNat))
  | .skp x => skip (decide ((s.readV x).toNat ≤ 15) && s.key.getLsbD (s.readV x).toNat)
  | .sknp x => skip (!(decide ((s.readV x).toNat ≤ 15) && s.key.getLsbD (s.readV x).toNat))
  | .cls | .ldByte _ _ | .addByte _ _ | .ldReg _ _ | .orReg _ _ | .andReg _ _ | .xorReg _ _ => skip false
  | .addReg _ _ | .sub _ _ | .shr _ _ | .subn _ _ | .shl _ _ | .ldI _ | .rnd _ _ | .drw _ _ _ => skip false
  | .ldVxDT _ | .ldVxK _ | .ldDTVx _ | .ldSTVx _ | .addI _ | .ldF _ | .ldB _ | .stRegs _ | .ldRegs _ => skip false

/-- Bit `7 - dc` of sprite row `dr`, where `dr`, `dc` is the offset of pixel row `r`, column `c` from the sprite's
left top at column `vx`, row `vy`, counted around the edges of the grid; false outside the `n` rows and eight columns
(R150, R152). -/
def spriteBit (rowByte : Nat → Byte) (vx vy n r c : Nat) : Bool :=
  let dr := (r + 32 - vy % 32) % 32
  let dc := (c + 64 - vx % 64) % 64
  decide (dr < n) && decide (dc < 8) && (rowByte dr).getLsbD (7 - dc)

/-! ### The invariant -/

/-- The error that `status` records is the one the rest of the state shows: the word at PC decodes to nothing, the
stack is empty, the address is above 4095, the program is too large, the stack is full (R170, R176). -/
def State.deadOk (s : State) : FatalError → Bool
  | .unknownOpcode w =>
    (match s.fetch with
      | .ok w' => w' == w
      | .error _ => false) &&
    (match decode w with
      | .ok _ => false
      | .error _ => true)
  | .stackUnderflow => s.sp.val == 0
  | .memoryOutOfBounds a => decide (4095 < a)
  | .programTooLarge n => decide (3584 < n)
  | .stackOverflow r => s.sp.val == 16 && r == s.pc + 2

/-- What `status` says agrees with the rest of the state: a recorded error is a true one, and in the key wait no Frame
is open. -/
def State.statusOk (s : State) : Bool :=
  match s.status with
  | .running => true
  | .awaitingKey _ => s.slot == 0
  | .dead e => s.deadOk e

/-- The invariant of every run: memory in canonical form (log entry 19); the Frame position below SPEED; PC at most
0x10FE, the largest value any rule produces (R24); every stack entry in use a value a call can push, 0x0002 to
0x1000 (R104); and the status in agreement with the rest. -/
def State.inv (s : State) : Bool :=
  Memory.wf s.mem && decide (s.slot < Config.speed) && decide (s.pc.toNat ≤ 0x10FE) &&
    (s.stk.toList.take s.sp.val).all (fun w => decide (2 ≤ w.toNat) && decide (w.toNat ≤ 0x1000)) && s.statusOk

end Sys2Proof.Machine
end

