-- ==== Sys2Proof/Certificates/Slice0/Obligations.lean ====
section
/-! DEFINITION. The statements for the provers. In every statement about an instruction `s` is the state before the
step, so `s.pc` is the address `a` it was fetched from. A frame is said by an equation such as
`{ t with pc := s.pc, v := s.v } = s`: `t` differs from `s` in the fields named and in no other. -/

open Sys2Proof Sys2Proof.Machine

/-! ### Control flow -/

/-- R101: 1nnn sets PC exactly to nnn and nothing else; the next fetch reads from that address, and fails for nnn =
0xFFF. -/
def Obligations.JumpSetsPc : Prop :=
  ∀ (nnn : Addr) (s : State), ∃ t, exec (.jp nnn) s = .next t ∧ t.pc.toNat = nnn.toNat ∧ OnlyPc s t ∧
    (nnn.toNat < 4095 →
      t.fetch = .ok (wordOfBytes (s.readByte nnn.toNat) (s.readByte (nnn.toNat + 1)))) ∧
    (nnn.toNat = 4095 → t.fetch = .error (.memoryOutOfBounds 4096))

/-- R102, R25: with room on the stack, 2nnn pushes a + 2 and jumps; with 16 entries in use it dies with
StackOverflow(a + 2) and changes nothing else. The bound of 16 and its error are the spec's own decision D1; what a
dead state keeps is its decision D11, and for the two outputs log entry 22. -/
def Obligations.CallPushesReturnAddress : Prop :=
  ∀ (nnn : Addr) (s : State),
    (s.sp.val < 16 → ∃ t, exec (.call nnn) s = .next t ∧ t.pc.toNat = nnn.toNat ∧ t.sp.val = s.sp.val + 1 ∧
      (∀ j : Fin 16, t.stk[j] = if j.val = s.sp.val then s.pc + 2 else s.stk[j]) ∧
      { t with pc := s.pc, sp := s.sp, stk := s.stk } = s ∧ ∀ a, t.readByte a = s.readByte a) ∧
    (s.sp.val = 16 → ∃ t, exec (.call nnn) s = .next t ∧ Died (.stackOverflow (s.pc + 2)) s t)

/-- R104, R25, R172: 00EE pops the top entry into PC and leaves the entries as they are; with an empty stack it dies
with StackUnderflow and changes nothing else. What a dead state keeps is the spec's own decision D11, and for the two
outputs the model's choice, log entry 22. -/
def Obligations.ReturnPopsStack : Prop :=
  ∀ s : State,
    (∀ j : Fin 16, s.sp.val = j.val + 1 → ∃ t, exec .ret s = .next t ∧ t.pc = s.stk[j] ∧ t.sp.val = j.val ∧
      { t with pc := s.pc, sp := s.sp } = s ∧ ∀ a, t.readByte a = s.readByte a) ∧
    (s.sp.val = 0 → ∃ t, exec .ret s = .next t ∧ Died .stackUnderflow s t)

/-- R109(a): a 2nnn at `a`, then anything that comes back to the call's stack depth with the entries in use as the
call left them (entries above, left by calls and returns in between, may be anything), then 00EE: PC is a + 2, SP is
what it was, and so is every entry then in use. -/
def Obligations.CallThenReturnResumes : Prop :=
  ∀ (nnn : Addr) (s t u : State), s.sp.val < 16 → exec (.call nnn) s = .next t → u.sp = t.sp →
    (∀ j : Fin 16, j.val < t.sp.val → u.stk[j] = t.stk[j]) →
    ∃ w, exec .ret u = .next w ∧ w.pc = s.pc + 2 ∧ w.sp = s.sp ∧
      ∀ j : Fin 16, j.val < s.sp.val → w.stk[j] = s.stk[j]

/-- R103: Bnnn sets PC to nnn + V0, not reduced modulo 4096, and nothing else; a sum above 4094 makes the next fetch
fail. -/
def Obligations.JumpV0AddsOffset : Prop :=
  ∀ (nnn : Addr) (s : State), ∃ t, exec (.jpV0 nnn) s = .next t ∧
    t.pc.toNat = nnn.toNat + (s.readV 0).toNat ∧ OnlyPc s t ∧
    (4094 < nnn.toNat + (s.readV 0).toNat →
      t.fetch = .error (.memoryOutOfBounds (max (nnn.toNat + (s.readV 0).toNat) 4096)))

/-- R105, R106: 3xkk goes to a + 4 when V[x] = kk and to a + 2 when not; 4xkk the other way round; nothing else. -/
def Obligations.SkipOnByteCompare : Prop :=
  ∀ (x : Reg) (kk : Byte) (s : State),
    (∃ t, exec (.seByte x kk) s = .next t ∧ OnlyPc s t ∧
      t.pc.toNat = (s.pc.toNat + if (s.readV x).toNat = kk.toNat then 4 else 2) % 65536) ∧
    (∃ t, exec (.sneByte x kk) s = .next t ∧ OnlyPc s t ∧
      t.pc.toNat = (s.pc.toNat + if (s.readV x).toNat = kk.toNat then 2 else 4) % 65536)

/-- R107, R108: 5xyN goes to a + 4 when V[x] = V[y] and to a + 2 when not; 9xyN the other way round; nothing else,
whatever the ignored low nibble is (R81; the spec's own decision D10). -/
def Obligations.SkipOnRegisterCompare : Prop :=
  ∀ (x y : Reg) (ign : Nibble) (s : State),
    (∃ t, exec (.seReg x y ign) s = .next t ∧ OnlyPc s t ∧
      t.pc.toNat = (s.pc.toNat + if (s.readV x).toNat = (s.readV y).toNat then 4 else 2) % 65536) ∧
    (∃ t, exec (.sneReg x y ign) s = .next t ∧ OnlyPc s t ∧
      t.pc.toNat = (s.pc.toNat + if (s.readV x).toNat = (s.readV y).toNat then 2 else 4) % 65536)

/-! ### Registers and ALU -/

/-- R121, R122: 6xkk writes kk to V[x]; 7xkk writes (V[x] + kk) mod 256; no flag, PC a + 2, nothing else. -/
def Obligations.LoadAndAddByte : Prop :=
  ∀ (x : Reg) (kk : Byte) (s : State),
    (∃ t, exec (.ldByte x kk) s = .next t ∧ t.readV x = kk ∧ t.pc = s.pc + 2 ∧ OnlyPcAndRegs [x] s t) ∧
    (∃ t, exec (.addByte x kk) s = .next t ∧ (t.readV x).toNat = ((s.readV x).toNat + kk.toNat) % 256 ∧
      t.pc = s.pc + 2 ∧ OnlyPcAndRegs [x] s t)

/-- R123, R124, R125, R131: 8xy0 copies V[y] to V[x]; 8xy1, 8xy2, 8xy3 are bitwise; no flag, PC a + 2, nothing else.
That V[x] is the destination and that the logic operations leave VF alone is the spec's own decision D3. -/
def Obligations.CopyAndBitwise : Prop :=
  ∀ (x y : Reg) (s : State),
    (∃ t, exec (.ldReg x y) s = .next t ∧ t.readV x = s.readV y ∧ t.pc = s.pc + 2 ∧ OnlyPcAndRegs [x] s t) ∧
    (∃ t, exec (.orReg x y) s = .next t ∧ t.pc = s.pc + 2 ∧ OnlyPcAndRegs [x] s t ∧
      ∀ k, k < 8 → (t.readV x).getLsbD k = ((s.readV x).getLsbD k || (s.readV y).getLsbD k)) ∧
    (∃ t, exec (.andReg x y) s = .next t ∧ t.pc = s.pc + 2 ∧ OnlyPcAndRegs [x] s t ∧
      ∀ k, k < 8 → (t.readV x).getLsbD k = ((s.readV x).getLsbD k && (s.readV y).getLsbD k)) ∧
    (∃ t, exec (.xorReg x y) s = .next t ∧ t.pc = s.pc + 2 ∧ OnlyPcAndRegs [x] s t ∧
      ∀ k, k < 8 → (t.readV x).getLsbD k = ((s.readV x).getLsbD k != (s.readV y).getLsbD k))

/-- R126: 8xy4 gives V[x] = (V[x] + V[y]) mod 256 and, unless x is 15, VF = 1 exactly when the sum exceeds 255; PC a +
2, nothing else. For x = 15 the result stands and the carry is lost, for y = 15 the old VF is added (R120; the spec's
own decision D2). -/
def Obligations.AddCarriesIntoVF : Prop :=
  ∀ (x y : Reg) (s : State), ∃ t, exec (.addReg x y) s = .next t ∧
    (t.readV x).toNat = ((s.readV x).toNat + (s.readV y).toNat) % 256 ∧
    (x ≠ VF → (t.readV VF).toNat = if (s.readV x).toNat + (s.readV y).toNat > 255 then 1 else 0) ∧
    t.pc = s.pc + 2 ∧ OnlyPcAndRegs [x, VF] s t

/-- R127, R129: 8xy5 gives V[x] = (V[x] - V[y]) mod 256 and VF = 1 exactly when V[x] > V[y]; 8xy7 the same with the
operands exchanged; VF is the result when x is 15; PC a + 2, nothing else. The flag of 8xy7 is the spec's own decision
D4, the cases x = 15 and y = 15 its decision D2. -/
def Obligations.SubtractSetsVFWhenGreater : Prop :=
  ∀ (x y : Reg) (s : State),
    (∃ t, exec (.sub x y) s = .next t ∧
      (t.readV x).toNat = ((s.readV x).toNat + 256 - (s.readV y).toNat) % 256 ∧
      (x ≠ VF → (t.readV VF).toNat = if (s.readV x).toNat > (s.readV y).toNat then 1 else 0) ∧
      t.pc = s.pc + 2 ∧ OnlyPcAndRegs [x, VF] s t) ∧
    (∃ t, exec (.subn x y) s = .next t ∧
      (t.readV x).toNat = ((s.readV y).toNat + 256 - (s.readV x).toNat) % 256 ∧
      (x ≠ VF → (t.readV VF).toNat = if (s.readV y).toNat > (s.readV x).toNat then 1 else 0) ∧
      t.pc = s.pc + 2 ∧ OnlyPcAndRegs [x, VF] s t)

/-- R128, R130: 8xy6 halves V[x] and puts its old bit 0 into VF; 8xyE doubles V[x] modulo 256 and puts its old bit 7
into VF as 0 or 1; VF is the result when x is 15; whatever the ignored y field is; PC a + 2, nothing else. In-place
shifting is the spec's own decision D3, the flag value of 8xyE its decision D25; the case x = 15, where the result is
that of the old VF and overwrites the flag, is its decision D2 (R120). Log entry 16. -/
def Obligations.ShiftMovesOneBit : Prop :=
  ∀ (x : Reg) (ign : Nibble) (s : State),
    (∃ t, exec (.shr x ign) s = .next t ∧ (t.readV x).toNat = (s.readV x).toNat / 2 ∧
      (x ≠ VF → (t.readV VF).toNat = (s.readV x).toNat % 2) ∧ t.pc = s.pc + 2 ∧ OnlyPcAndRegs [x, VF] s t) ∧
    (∃ t, exec (.shl x ign) s = .next t ∧ (t.readV x).toNat = (s.readV x).toNat * 2 % 256 ∧
      (x ≠ VF → (t.readV VF).toNat = (s.readV x).toNat / 128) ∧ t.pc = s.pc + 2 ∧ OnlyPcAndRegs [x, VF] s t)

/-- R133: Cxkk writes a byte drawn from the environment, masked by kk: no bit is set outside kk; PC a + 2, the draw is
counted, nothing else. The byte is the free value `Config.randByte`, and this holds whatever it is. -/
def Obligations.RandomByteIsMasked : Prop :=
  ∀ (x : Reg) (kk : Byte) (s : State), ∃ t, exec (.rnd x kk) s = .next t ∧
    (∀ k, k < 8 → (t.readV x).getLsbD k = ((Config.randByte s.draws).getLsbD k && kk.getLsbD k)) ∧
    (kk = 0 → t.readV x = 0) ∧ t.pc = s.pc + 2 ∧ t.draws = s.draws + 1 ∧
    { t with pc := s.pc, v := s.v, draws := s.draws } = s ∧ (∀ r, r ≠ x → t.readV r = s.readV r) ∧
    ∀ a, t.readByte a = s.readByte a

/-- R22: an instruction that is not one of the six flag writers, does not name VF as its x, and is not Fx0A's later
key press leaves VF alone; Fx65 never reaches VF (R147). -/
def Obligations.OnlyFlagWritersTouchVF : Prop :=
  ∀ (i : Instr) (s t : State), exec i s = .next t → i.writesFlag = false → i.dest ≠ some VF →
    t.readV VF = s.readV VF

/-- R22: a flag writer that completes and does not name VF as its destination leaves 0x00 or 0x01 in VF. -/
def Obligations.FlagIsZeroOrOne : Prop :=
  ∀ (i : Instr) (s t : State), s.alive = true → exec i s = .next t → t.alive = true → i.writesFlag = true →
    i.dest ≠ some VF → t.readV VF = 0 ∨ t.readV VF = 1

/-- R37, R21: an instruction changes no general register but the destination it names, VF, and, for Fx65, the
registers below x. -/
def Obligations.RegistersOutsideDestinationStay : Prop :=
  ∀ (i : Instr) (s t : State) (r : Reg), exec i s = .next t → i.dest ≠ some r → r ≠ VF →
    (∀ x, i = .ldRegs x → x.val ≤ r.val) → t.readV r = s.readV r

/-! ### Index register and memory -/

/-- R141, R143: Annn writes nnn to I; Fx29 writes five times the whole byte V[x]; PC a + 2, nothing else. -/
def Obligations.LoadIndex : Prop :=
  (∀ (nnn : Addr) (s : State), ∃ t, exec (.ldI nnn) s = .next t ∧ t.idx.toNat = nnn.toNat ∧ t.pc = s.pc + 2 ∧
    OnlyPcAndI s t) ∧
  (∀ (x : Reg) (s : State), ∃ t, exec (.ldF x) s = .next t ∧ t.idx.toNat = (s.readV x).toNat * 5 ∧
    t.pc = s.pc + 2 ∧ OnlyPcAndI s t)

/-- R142: Fx1E adds V[x] to I modulo 65536, with no flag and no error whatever the sum; PC a + 2, nothing else. That a
sum above 0xFFF is no error is the spec's own decision D12. -/
def Obligations.AddIndexWraps : Prop :=
  ∀ (x : Reg) (s : State), ∃ t, exec (.addI x) s = .next t ∧
    t.idx.toNat = (s.idx.toNat + (s.readV x).toNat) % 65536 ∧ t.pc = s.pc + 2 ∧ OnlyPcAndI s t

/-- R144: with I at most 4093, Fx33 stores the hundreds, tens and ones of V[x] at I, I + 1, I + 2, the digits read back
as V[x], and no other byte changes; PC a + 2, nothing else. -/
def Obligations.StoreDigits : Prop :=
  ∀ (x : Reg) (s : State), s.idx.toNat ≤ 4093 → ∃ t, exec (.ldB x) s = .next t ∧
    (t.readByte s.idx.toNat).toNat = (s.readV x).toNat / 100 ∧
    (t.readByte (s.idx.toNat + 1)).toNat = (s.readV x).toNat % 100 / 10 ∧
    (t.readByte (s.idx.toNat + 2)).toNat = (s.readV x).toNat % 10 ∧
    t.pc = s.pc + 2 ∧ OnlyPcAndBytes s.idx.toNat 3 s t

/-- R145: when x is 0 or the range fits, Fx55 stores V[0] to V[x-1] from I and no other byte, V[x] not included; I is
unchanged; PC a + 2, nothing else. -/
def Obligations.StoreRegsExcludesX : Prop :=
  ∀ (x : Reg) (s : State), x.val = 0 ∨ s.idx.toNat + x.val - 1 ≤ 4095 → ∃ t, exec (.stRegs x) s = .next t ∧
    (∀ j : Reg, j.val < x.val → t.readByte (s.idx.toNat + j.val) = s.readV j) ∧
    t.pc = s.pc + 2 ∧ OnlyPcAndBytes s.idx.toNat x.val s t

/-- R147: when x is 0 or the range fits, Fx65 loads V[0] to V[x-1] from I and no other register, V[x] not included; I
and memory are unchanged; PC a + 2, nothing else. -/
def Obligations.LoadRegsExcludesX : Prop :=
  ∀ (x : Reg) (s : State), x.val = 0 ∨ s.idx.toNat + x.val - 1 ≤ 4095 → ∃ t, exec (.ldRegs x) s = .next t ∧
    (∀ j : Reg, j.val < x.val → t.readV j = s.readByte (s.idx.toNat + j.val)) ∧
    (∀ j : Reg, x.val ≤ j.val → t.readV j = s.readV j) ∧ t.pc = s.pc + 2 ∧
    { t with pc := s.pc, v := s.v } = s ∧ ∀ a, t.readByte a = s.readByte a

/-- R57, R144, R145, R147, R153: an instruction whose byte range from I passes 4095 dies with MemoryOutOfBounds at the
lowest address above 4095, max(I, 4096), and changes nothing else: no byte, no register, no pixel. Checking the whole
range first is the spec's own decision D26; that the two outputs stay in a dead state is log entry 22. -/
def Obligations.RangeErrorTouchesNothing : Prop :=
  ∀ s : State,
    (∀ x : Reg, s.idx.toNat + 2 > 4095 →
      ∃ t, exec (.ldB x) s = .next t ∧ Died (.memoryOutOfBounds (max s.idx.toNat 4096)) s t) ∧
    (∀ x : Reg, 1 ≤ x.val → s.idx.toNat + x.val - 1 > 4095 →
      (∃ t, exec (.stRegs x) s = .next t ∧ Died (.memoryOutOfBounds (max s.idx.toNat 4096)) s t) ∧
      (∃ t, exec (.ldRegs x) s = .next t ∧ Died (.memoryOutOfBounds (max s.idx.toNat 4096)) s t)) ∧
    (∀ (x y : Reg) (n : Nibble), 1 ≤ n.toNat → s.idx.toNat + n.toNat - 1 > 4095 →
      ∃ t, exec (.drw x y n) s = .next t ∧ Died (.memoryOutOfBounds (max s.idx.toNat 4096)) s t)

/-- R146: Fx55 and then Fx65 with the same I and x bring back V[0] to V[x-1], whatever happened to the registers in
between, and leave V[x] as it then is. -/
def Obligations.StoreThenLoadRestores : Prop :=
  ∀ (x : Reg) (s t u : State), (x.val = 0 ∨ s.idx.toNat + x.val - 1 ≤ 4095) → exec (.stRegs x) s = .next t →
    u.idx = t.idx → (∀ a, u.readByte a = t.readByte a) →
    ∃ w, exec (.ldRegs x) u = .next w ∧ (∀ j : Reg, j.val < x.val → w.readV j = s.readV j) ∧
      w.readV x = u.readV x

/-! ### Display -/

/-- R154: 00E0 clears every pixel; VF and every other register stay; PC a + 2, nothing else. -/
def Obligations.ClearDisplay : Prop :=
  ∀ s : State, ∃ t, exec .cls s = .next t ∧ (∀ (r : Fin 32) (c : Fin 64), t.pixel r c = false) ∧
    t.pc = s.pc + 2 ∧ { t with pc := s.pc, fb := s.fb } = s ∧ ∀ a, t.readByte a = s.readByte a

/-- R150, R152, R153: when n is 0 or the range fits, Dxyn toggles exactly the pixels under a set bit of the n bytes at
I, placed at column V[x], row V[y] and wrapped per pixel, and VF is 1 when one of them was set and 0 otherwise; PC a +
2, nothing else. The coordinates are the values before the write of VF (R120; the spec's own decision D2). -/
def Obligations.DrawTogglesAndDetects : Prop :=
  ∀ (x y : Reg) (n : Nibble) (s : State), n.toNat = 0 ∨ s.idx.toNat + n.toNat - 1 ≤ 4095 →
    ∃ t, exec (.drw x y n) s = .next t ∧
      (∀ (r : Fin 32) (c : Fin 64), t.pixel r c = (s.pixel r c !=
        spriteBit (fun k => s.readByte (s.idx.toNat + k)) (s.readV x).toNat (s.readV y).toNat n.toNat r c)) ∧
      (t.readV VF = 0 ∨ t.readV VF = 1) ∧
      (t.readV VF = 1 ↔ ∃ (r : Fin 32) (c : Fin 64), s.pixel r c = true ∧
        spriteBit (fun k => s.readByte (s.idx.toNat + k)) (s.readV x).toNat (s.readV y).toNat n.toNat r c
          = true) ∧
      t.pc = s.pc + 2 ∧ { t with pc := s.pc, v := s.v, fb := s.fb } = s ∧
      (∀ r, r ≠ VF → t.readV r = s.readV r) ∧ ∀ a, t.readByte a = s.readByte a

/-- R153: drawing the same sprite twice at the same place restores the grid. The second time VF is 1 exactly when some
pixel under a set bit was clear before the first draw; so, where all of them were clear, exactly when the sprite has a
set bit, which is the rule's sentence (log entry 27). -/
def Obligations.DrawTwiceRestores : Prop :=
  ∀ (x y : Reg) (n : Nibble) (s t : State), x ≠ VF → y ≠ VF → n.toNat = 0 ∨ s.idx.toNat + n.toNat - 1 ≤ 4095 →
    exec (.drw x y n) s = .next t →
    let bit (r : Fin 32) (c : Fin 64) : Bool := spriteBit (fun k => s.readByte (s.idx.toNat + k))
      (s.readV x).toNat (s.readV y).toNat n.toNat r c
    ∃ u, exec (.drw x y n) t = .next u ∧ u.fb = s.fb ∧
      (u.readV VF = 1 ↔ ∃ r c, bit r c = true ∧ s.pixel r c = false) ∧
      ((∀ r c, bit r c = true → s.pixel r c = false) →
        (u.readV VF = 1 ↔ ∃ dr dc, dr < n.toNat ∧ dc < 8 ∧
          (s.readByte (s.idx.toNat + dr)).getLsbD (7 - dc) = true))

/-! ### Keypad and timers -/

/-- R161, R162: Ex9E goes to a + 4 when V[x] is at most 15 and that key is held, else to a + 2; ExA1 the other way
round; nothing else. That a code above 15 is not held is the spec's own decision D13. -/
def Obligations.SkipOnKey : Prop :=
  ∀ (x : Reg) (s : State),
    (∃ t, exec (.skp x) s = .next t ∧ OnlyPc s t ∧
      (∀ k : Key, (s.readV x).toNat = k.val →
        t.pc.toNat = (s.pc.toNat + if s.key.getLsbD k.val then 4 else 2) % 65536) ∧
      ((s.readV x).toNat > 15 → t.pc.toNat = (s.pc.toNat + 2) % 65536)) ∧
    (∃ t, exec (.sknp x) s = .next t ∧ OnlyPc s t ∧
      (∀ k : Key, (s.readV x).toNat = k.val →
        t.pc.toNat = (s.pc.toNat + if s.key.getLsbD k.val then 2 else 4) % 65536) ∧
      ((s.readV x).toNat > 15 → t.pc.toNat = (s.pc.toNat + 4) % 65536))

/-- R163: Fx0A puts the core in the key wait with target x and PC a + 2, and writes nothing else, V[x] included. -/
def Obligations.KeyWaitBegins : Prop :=
  ∀ (x : Reg) (s : State), ∃ t, exec (.ldVxK x) s = .next t ∧ t.status = .awaitingKey x ∧ t.paused = true ∧
    t.pc = s.pc + 2 ∧ { t with pc := s.pc, status := s.status } = s ∧ (∀ r, t.readV r = s.readV r) ∧
    ∀ a, t.readByte a = s.readByte a

/-- R164: KeyPress(k) in AwaitingKey(t) writes k to V[t] and returns to Running, and changes nothing else; in any
other status it changes nothing. -/
def Obligations.KeyPressEndsWait : Prop :=
  ∀ (k : Key) (s : State),
    (∀ t : Reg, s.status = .awaitingKey t →
      ((s.keyPress k).readV t).toNat = k.val ∧ (s.keyPress k).status = .running ∧
      { s.keyPress k with v := s.v, status := s.status } = s ∧
      (∀ r, r ≠ t → (s.keyPress k).readV r = s.readV r)) ∧
    (s.paused = false → s.keyPress k = s)

/-- R165, R166, R167: Fx07 copies DT to V[x], Fx15 copies V[x] to DT, Fx18 copies V[x] to ST; PC a + 2, nothing else.
Which pattern does which is the spec's general knowledge (R168, its decision D8). -/
def Obligations.TimerRegisterMoves : Prop :=
  ∀ (x : Reg) (s : State),
    (∃ t, exec (.ldVxDT x) s = .next t ∧ t.readV x = s.dt ∧ t.pc = s.pc + 2 ∧ OnlyPcAndRegs [x] s t) ∧
    (∃ t, exec (.ldDTVx x) s = .next t ∧ t.dt = s.readV x ∧ t.pc = s.pc + 2 ∧
      { t with pc := s.pc, dt := s.dt } = s ∧ ∀ a, t.readByte a = s.readByte a) ∧
    (∃ t, exec (.ldSTVx x) s = .next t ∧ t.st = s.readV x ∧ t.pc = s.pc + 2 ∧
      { t with pc := s.pc, st := s.st } = s ∧ ∀ a, t.readByte a = s.readByte a)

/-- R186: k ticks take each timer down by k, floored at zero, and change nothing else; a tick does nothing when Dead. -/
def Obligations.TimersCountDownToZero : Prop :=
  ∀ (k : Nat) (s : State),
    (s.alive = true → (State.timerTick^[k] s).dt.toNat = s.dt.toNat - k ∧
      (State.timerTick^[k] s).st.toNat = s.st.toNat - k) ∧
    (s.alive = false → State.timerTick^[k] s = s) ∧
    { State.timerTick^[k] s with dt := s.dt, st := s.st } = s

/-! ### Step, errors and Frame -/

/-- R71, R50, R180: a fetch reads the two bytes at PC and PC + 1, the first in bits 15 to 8; at PC = 4095 it fails on
the second byte, above on the first. -/
def Obligations.FetchIsBigEndianAndBounded : Prop :=
  ∀ s : State,
    (s.pc.toNat ≤ 4094 → ∃ w, s.fetch = .ok w ∧
      w.toNat = (s.readByte s.pc.toNat).toNat * 256 + (s.readByte (s.pc.toNat + 1)).toNat) ∧
    (s.pc.toNat = 4095 → s.fetch = .error (.memoryOutOfBounds 4096)) ∧
    (s.pc.toNat > 4095 → s.fetch = .error (.memoryOutOfBounds s.pc.toNat))

/-- R70: when the core is Running and the word at PC decodes to `i`, the step is `exec i` at this state, with the key
levels sampled before it (log entry 2), the death, if any, taken from the state before, and the slot closed after it
(log entry 1). -/
def Obligations.StepRunsDecodedInstruction : Prop :=
  ∀ (s t : State) (w : Word) (i : Instr), s.status = .running → s.fetch = .ok w → decode w = .ok i →
    exec i s.sampleKeys = .next t →
    (t.alive = true → step s = .next t.closeSlot) ∧
    (∀ e, t.status = .dead e → step s = .next (s.raise e))

/-- R171, R173, R180: when Running, a failing fetch kills the core with MemoryOutOfBounds, and a fetched word that
decodes to nothing kills it with UnknownOpcode of that word; nothing else changes, PC included. What a dead state keeps
is the spec's own decision D11; that `toneOn` and `renders` stay too is the model's choice, log entry 22. -/
def Obligations.StepDiesOnBadFetchOrWord : Prop :=
  ∀ s : State, s.status = .running →
    (s.pc.toNat > 4094 → ∃ t, step s = .next t ∧ Died (.memoryOutOfBounds (max s.pc.toNat 4096)) s t) ∧
    (∀ (w : Word) (r : Rejection), s.fetch = .ok w → decode w = .error r →
      ∃ t, step s = .next t ∧ Died (.unknownOpcode w) s t)

/-- R176: a step that ends Dead changes `status` and nothing else: errors are precise. The spec's own decision D11;
that `toneOn` and `renders` stay too is the model's choice, log entry 22. -/
def Obligations.FatalErrorsArePrecise : Prop :=
  ∀ (s t : State) (e : FatalError), step s = .next t → t.status = .dead e → Died e s t

/-- R70, R170: every instruction, in every state, completes or takes a fatal error: `exec` answers a next state, never
a fault and never a refusal, and the only errors it takes are those of R180's execute phase, each by its own
instructions. -/
def Obligations.ExecAlwaysAnswersNext : Prop :=
  ∀ (i : Instr) (s : State), ∃ t, exec i s = .next t ∧
    (s.alive = true → ∀ e, t.status = .dead e →
      (e = .stackUnderflow ∧ i = .ret) ∨ ((∃ nnn, i = .call nnn) ∧ ∃ r, e = .stackOverflow r) ∨
      ((∃ a, e = .memoryOutOfBounds a) ∧
        ((∃ x, i = .ldB x ∨ i = .stRegs x ∨ i = .ldRegs x) ∨ ∃ x y n, i = .drw x y n)))

/-- R177: in Dead no step is enabled, so the machine stops with the recorded error (the fault is log entry 6); a Frame
does nothing; the tick, a key press and a Load are ignored. R183, R200: Reset, which is enabled in every state and is
the only exit from Dead, gives a fresh core, Running at 0x200, in which the memory, a loaded program included, is that
of reset. That Reset is an operation beside the step and keeps the key levels and the draw count, all else being
`State.reset`, is the model's choice, log entry 24. -/
def Obligations.DeadIsAbsorbing : Prop :=
  (∀ (s : State) (e : FatalError), s.status = .dead e →
    step s = .fault (.dead e) ∧ s.frame = .next s ∧ s.timerTick = s ∧ (∀ k, s.keyPress k = s) ∧
    ∀ bytes, s.load bytes = s) ∧
  ∀ s : State, s.restart.status = .running ∧ s.restart.pc.toNat = 0x200 ∧
    (∀ a, s.restart.readByte a = State.reset.readByte a) ∧
    s.restart = { State.reset with key := s.key, draws := s.draws }

/-- R188: after an instruction step a Running core goes on to the next slot with no tick and no output; after its tenth
slot the Frame ends: both timers tick, then the tone level is ST > 0, and a render is requested; a core that now waits
for a key ends the Frame at once, without the tick. The slots are log entry 1; that a Frame which ends in the key wait
makes no tick is the spec's own decision D5, on a point where its source contradicts itself (R187, log entry 15). -/
def Obligations.SlotsCloseAsTheFrameSays : Prop :=
  ∀ s t : State, s.status = .running → s.instrStep = .next t →
    (t.status = .running → t.slot + 1 < 10 → step s = .next (t.setSlot (t.slot + 1))) ∧
    (t.status = .running → t.slot + 1 ≥ 10 → ∃ u, step s = .next u ∧ u.dt.toNat = t.dt.toNat - 1 ∧
      u.st.toNat = t.st.toNat - 1 ∧ (u.toneOn = true ↔ t.st.toNat > 1) ∧ u.renders = t.renders + 1 ∧ u.slot = 0 ∧
      { u with dt := t.dt, st := t.st, toneOn := t.toneOn, renders := t.renders, slot := t.slot } = t) ∧
    (∀ x, t.status = .awaitingKey x → ∃ u, step s = .next u ∧ (u.toneOn = true ↔ t.st.toNat > 0) ∧
      u.renders = t.renders + 1 ∧ u.slot = 0 ∧
      { u with toneOn := t.toneOn, renders := t.renders, slot := t.slot } = t)

/-- R164, R187, R188, R191: in the key wait a step is a KeyPress(k) of the environment, or a Frame in which nothing
executes and no timer ticks but the tone and the render request are made; either way the draw is counted. Which of the
two is the free value `Config.keyPress` (log entry 4). That the timers do not tick is the spec's own decision D5 (log
entry 15). -/
def Obligations.WaitTakesPressOrEmptyFrame : Prop :=
  ∀ (s : State) (x : Reg), s.status = .awaitingKey x →
    (∀ k, Config.keyPress s.draws = some k → step s = .next (s.countDraw.keyPress k)) ∧
    (Config.keyPress s.draws = none → ∃ u, step s = .next u ∧ s.countDraw.frame = .next u ∧
      (u.toneOn = true ↔ s.st.toNat > 0) ∧ u.renders = s.renders + 1 ∧
      { u with toneOn := s.toneOn, renders := s.renders, draws := s.draws } = s)

/-- R188: from a Running core at the start of a Frame, the steps of the machine make the Frame the spec writes: at most
ten of them, and the state they reach is the Frame's, up to the position inside the Frame that a dead core keeps. -/
def Obligations.StepsMakeTheFrame : Prop :=
  ∀ s : State, s.status = .running → s.slot = 0 →
    ∃ (k : Nat) (f g : State), 1 ≤ k ∧ k ≤ 10 ∧ s.frame = .next f ∧ core.run k s = .next g ∧ g.setSlot 0 = f ∧
      (g.alive = true → g.slot = 0 ∧ g = f)

/-- R198: a jump to self, the idiom for the end of a program, changes no state at all. -/
def Obligations.JumpToSelfChangesNothing : Prop :=
  ∀ (nnn : Addr) (s : State), s.pc.toNat = nnn.toNat → exec (.jp nnn) s = .next s

/-- R24, R100: where PC is after an instruction that raised no error, for every instruction. The popped entry is R25's
and R104's, the skip conditions are those of R105 to R108, R161 and R162. That a key code above 15 is not held is the
spec's own decision D13, that 5xyN and 9xyN skip whatever N its decision D10, that Bnnn is not reduced modulo 4096 its
decision D12 (log entry 16). -/
def Obligations.PcAfterEveryInstruction : Prop :=
  ∀ (i : Instr) (s t : State), s.alive = true → exec i s = .next t → t.alive = true → t.pc.toNat = pcAfter i s

/-! ### Who may write what -/

/-- R62, R109(b), R35: memory is changed by no instruction but Fx33 and Fx55; the stack and its depth by none but 2nnn
and 00EE. -/
def Obligations.OnlyStoresAndCallsWriteMemoryAndStack : Prop :=
  ∀ (i : Instr) (s t : State), exec i s = .next t →
    (t.mem = s.mem ∨ ∃ x, i = .ldB x ∨ i = .stRegs x) ∧
    ((t.stk = s.stk ∧ t.sp = s.sp) ∨ i = .ret ∨ ∃ nnn, i = .call nnn)

/-- R23, R26, R27: I is written by no instruction but Annn, Fx1E, Fx29; DT by none but Fx15; ST by none but Fx18. -/
def Obligations.OnlyTheirInstructionsWriteIndexAndTimers : Prop :=
  ∀ (i : Instr) (s t : State), exec i s = .next t →
    (t.idx = s.idx ∨ (∃ nnn, i = .ldI nnn) ∨ ∃ x, i = .addI x ∨ i = .ldF x) ∧
    (t.dt = s.dt ∨ ∃ x, i = .ldDTVx x) ∧ (t.st = s.st ∨ ∃ x, i = .ldSTVx x)

/-- R155, R31, R35, R28, R32: the display is changed by no instruction but 00E0 and Dxyn; `status` by none but Fx0A and
a fatal error; the key levels by none. R188, R194, R195: no instruction changes the tone level, makes a render request
or moves the position in the Frame, which are the Frame's business. The fields `renders` and `slot` that hold the last
two are the model's own, log entries 11 and 1. -/
def Obligations.OnlyTheirInstructionsWriteDisplayAndStatus : Prop :=
  ∀ (i : Instr) (s t : State), exec i s = .next t →
    (t.fb = s.fb ∨ i = .cls ∨ ∃ x y n, i = .drw x y n) ∧
    (t.status = s.status ∨ t.alive = false ∨ ∃ x, i = .ldVxK x) ∧
    t.key = s.key ∧ t.toneOn = s.toneOn ∧ t.renders = s.renders ∧ t.slot = s.slot

/-- R27: no instruction reads ST: one instruction, run from two states that differ in ST alone, goes to states that
differ in ST alone. -/
def Obligations.SoundTimerIsUnread : Prop :=
  ∀ (i : Instr) (s t : State) (n : Byte), exec i s = .next t →
    ∃ u, exec i (s.setST n) = .next u ∧ u.setST t.st = t

/-! ### Encoding -/

/-- R76, R80: decoding the word of an instruction gives the instruction back, for every instruction and every operand
at every value. That the ignored fields (R81, R83) are operands too is the model's choice, log entry 17. -/
def Obligations.DecodeOfEncode : Prop :=
  ∀ i : Instr, decode (encode i) = .ok i ∧ ∀ rest, decodeBytes (encodeBytes i ++ rest) = .ok (i, rest)

/-- R76: where a word decodes, the instruction encodes back to that very word: no bit of it is dropped. By R81 and R83
sixteen words give the same instruction in four places; that the model's instruction determines its word there too
holds by its choice to keep the ignored fields as operands, log entry 17. -/
def Obligations.EncodeOfDecode : Prop :=
  ∀ (w : Word) (i : Instr), decode w = .ok i → encode i = w

/-- R77, R78, R79, R84: the words that decode to nothing are exactly the four families' unlisted selectors, and each is
rejected as UnknownOpcode of that word. Which selectors are listed in family 0 is the spec's own decision D9. -/
def Obligations.UnknownWordsAreExactly : Prop :=
  ∀ w : Word,
    (decode w = .error (.unknownOpcode w) ↔
      (w.toNat / 4096 = 0x0 ∧ w.toNat ≠ 0x00E0 ∧ w.toNat ≠ 0x00EE) ∨
      (w.toNat / 4096 = 0x8 ∧ w.toNat % 16 ∈ [0x8, 0x9, 0xA, 0xB, 0xC, 0xD, 0xF]) ∨
      (w.toNat / 4096 = 0xE ∧ w.toNat % 256 ∉ [0x9E, 0xA1]) ∨
      (w.toNat / 4096 = 0xF ∧ w.toNat % 256 ∉ [0x07, 0x0A, 0x15, 0x18, 0x1E, 0x29, 0x33, 0x55, 0x65])) ∧
    ∀ r, decode w = .error r → r = .unknownOpcode w

/-- R80: the decoder and the opcode map agree: a word that decodes matches the row of its instruction and no other row,
and a word that matches a row decodes. -/
def Obligations.OpcodeMapPartitionsWords : Prop :=
  opcodeMap.length = 34 ∧
  (∀ (w : Word) (i : Instr), decode w = .ok i →
    rowOf i ∈ opcodeMap ∧ ∀ row ∈ opcodeMap, (matchesRow w row = true ↔ row = rowOf i)) ∧
  (∀ (w : Word) (row : Word × Word), row ∈ opcodeMap → matchesRow w row = true → ∃ i, decode w = .ok i)

/-- R50, R80: words written out from the spec's encodings decode to the instructions they stand for: the source
document's bytes 6A 05 are LD VA, 0x05, and one word at least of each of the sixteen families (R17). That 0x5127 and
0x912F are legal is the spec's own decision D10, that 0x01E0 is unknown its decision D9; that their low nibble is an
operand is log entry 17. -/
def Obligations.SpecWordsDecode : Prop :=
  decodeBytes [0x6A, 0x05] = .ok (.ldByte 10 0x05, []) ∧
  decode 0x00EE = .ok .ret ∧ decode 0x1234 = .ok (.jp 0x234) ∧ decode 0x2300 = .ok (.call 0x300) ∧
  decode 0x3A05 = .ok (.seByte 10 0x05) ∧ decode 0x4A05 = .ok (.sneByte 10 0x05) ∧
  decode 0x5127 = .ok (.seReg 1 2 7) ∧ decode 0x6A05 = .ok (.ldByte 10 0x05) ∧
  decode 0x7102 = .ok (.addByte 1 0x02) ∧ decode 0x8F14 = .ok (.addReg 15 1) ∧
  decode 0x912F = .ok (.sneReg 1 2 15) ∧ decode 0xAFFF = .ok (.ldI 0xFFF) ∧ decode 0xB300 = .ok (.jpV0 0x300) ∧
  decode 0xC30F = .ok (.rnd 3 0x0F) ∧ decode 0xD125 = .ok (.drw 1 2 5) ∧ decode 0xE29E = .ok (.skp 2) ∧
  decode 0xF355 = .ok (.stRegs 3) ∧ decode 0x01E0 = .error (.unknownOpcode 0x01E0)

/-! ### Reset, Load and the invariant -/

/-- R24, R30, R36: after reset PC is 0x200, the core is Running, and glyph 0 stands at 0x000 to 0x004. -/
def Obligations.ResetEntryPointAndGlyphZero : Prop :=
  State.reset.pc.toNat = 0x200 ∧ State.reset.status = .running ∧
    (List.range 5).map State.reset.readByte = [0xF0, 0x90, 0x90, 0x90, 0xF0]

/-- R36, R200: after reset every general register, I, SP, the stack, both timers, every pixel and every byte from 0x050
on is zero: the spec's own decision D6 (log entry 7). -/
def Obligations.ResetZeros : Prop :=
  (∀ r, State.reset.readV r = 0) ∧ State.reset.idx = 0 ∧ State.reset.sp.val = 0 ∧
    (∀ j : Fin 16, State.reset.stk[j] = 0) ∧ State.reset.dt = 0 ∧ State.reset.st = 0 ∧
    (∀ (r : Fin 32) (c : Fin 64), State.reset.pixel r c = false) ∧
    ∀ a, 0x50 ≤ a → State.reset.readByte a = 0

/-- R185, R175: Load of at most 3584 bytes puts them at 0x200 upward and changes nothing else; Load of more writes no
byte and kills the core with ProgramTooLarge. That rejection kills is the spec's own decision D16; that the two outputs
stay in a dead state is log entry 22. -/
def Obligations.LoadPlacesProgram : Prop :=
  ∀ (bytes : List Byte) (s : State), s.alive = true →
    (bytes.length ≤ 3584 →
      (∀ k, k < bytes.length → (s.load bytes).readByte (0x200 + k) = bytes.getD k 0) ∧
      (∀ a, a < 0x200 ∨ 0x200 + bytes.length ≤ a → (s.load bytes).readByte a = s.readByte a) ∧
      { s.load bytes with mem := s.mem } = s) ∧
    (bytes.length > 3584 → Died (.programTooLarge bytes.length) s (s.load bytes))

/-- The invariant of the model (memory in canonical form, Frame position, PC at most 0x10FE by R24, stack entries in
use between 0x0002 and 0x1000 by R104, status in agreement with the rest by R170 and R176) is kept by every step that
answers a next state. -/
def Obligations.StepKeepsInvariant : Prop :=
  ∀ s t : State, s.inv = true → step s = .next t → t.inv = true

/-- The invariant holds at reset. -/
def Obligations.ResetMeetsInvariant : Prop := State.reset.inv = true

/-- The invariant is kept by the events outside the step: a key press, a Load and a tick. -/
def Obligations.EventsKeepInvariant : Prop :=
  ∀ s : State, s.inv = true →
    (∀ k, (s.keyPress k).inv = true) ∧ (∀ bytes, (s.load bytes).inv = true) ∧ s.timerTick.inv = true

/-- Memory in canonical form is determined by what its 4096 addresses read as (log entry 19). -/
def Obligations.CanonicalMemoryIsItsContents : Prop :=
  ∀ m m' : Memory, m.wf = true → m'.wf = true → (∀ a, a < 4096 → m.read a = m'.read a) → m = m'

/-! ### What a run keeps apart -/

/-- R27, R195: over whole runs ST reaches the tone level and nothing else: two runs from states that differ in ST and
the tone level alone, under the same inputs, stop alike or go to states that differ in ST and the tone level alone. -/
def Obligations.SoundTimerReachesToneAlone : Prop :=
  ∀ (k : Nat) (s : State) (n : Byte) (c : Bool),
    (∀ t, core.run k s = .next t →
      ∃ (m : Byte) (d : Bool), core.run k { s with st := n, toneOn := c } = .next { t with st := m, toneOn := d }) ∧
    ∀ r, core.run k s = .fault r → core.run k { s with st := n, toneOn := c } = .fault r
end

