-- ==== Sys2Proof/Laws/State.lean ====
section
/-! SUPPORT. One lemma per field per update of the state, each true by unfolding, so that no later proof unfolds a
record update; and the same for the readings `readV`, `readByte`, `pixel`, `keyHeld`. -/

namespace Sys2Proof.Machine

variable (s : State)


/-! ### writeV -/

@[simp] theorem State.writeV_v (x : Reg) (b : Byte) : (s.writeV x b).v = s.v.set x b := rfl
@[simp] theorem State.writeV_idx (x : Reg) (b : Byte) : (s.writeV x b).idx = s.idx := rfl
@[simp] theorem State.writeV_pc (x : Reg) (b : Byte) : (s.writeV x b).pc = s.pc := rfl
@[simp] theorem State.writeV_stk (x : Reg) (b : Byte) : (s.writeV x b).stk = s.stk := rfl
@[simp] theorem State.writeV_sp (x : Reg) (b : Byte) : (s.writeV x b).sp = s.sp := rfl
@[simp] theorem State.writeV_dt (x : Reg) (b : Byte) : (s.writeV x b).dt = s.dt := rfl
@[simp] theorem State.writeV_st (x : Reg) (b : Byte) : (s.writeV x b).st = s.st := rfl
@[simp] theorem State.writeV_status (x : Reg) (b : Byte) : (s.writeV x b).status = s.status := rfl
@[simp] theorem State.writeV_mem (x : Reg) (b : Byte) : (s.writeV x b).mem = s.mem := rfl
@[simp] theorem State.writeV_fb (x : Reg) (b : Byte) : (s.writeV x b).fb = s.fb := rfl
@[simp] theorem State.writeV_key (x : Reg) (b : Byte) : (s.writeV x b).key = s.key := rfl
@[simp] theorem State.writeV_toneOn (x : Reg) (b : Byte) : (s.writeV x b).toneOn = s.toneOn := rfl
@[simp] theorem State.writeV_renders (x : Reg) (b : Byte) : (s.writeV x b).renders = s.renders := rfl
@[simp] theorem State.writeV_slot (x : Reg) (b : Byte) : (s.writeV x b).slot = s.slot := rfl
@[simp] theorem State.writeV_draws (x : Reg) (b : Byte) : (s.writeV x b).draws = s.draws := rfl
@[simp] theorem State.writeV_readByte (x : Reg) (b : Byte) (a : Nat) : (s.writeV x b).readByte a = s.readByte a := rfl
@[simp] theorem State.writeV_pixel (x : Reg) (b : Byte) (r : Fin 32) (c : Fin 64) :
    (s.writeV x b).pixel r c = s.pixel r c := rfl
@[simp] theorem State.writeV_keyHeld (x : Reg) (b : Byte) (vx : Byte) : (s.writeV x b).keyHeld vx = s.keyHeld vx := rfl

/-! ### setV -/

@[simp] theorem State.setV_v (w : Vector Byte 16) : (s.setV w).v = w := rfl
@[simp] theorem State.setV_idx (w : Vector Byte 16) : (s.setV w).idx = s.idx := rfl
@[simp] theorem State.setV_pc (w : Vector Byte 16) : (s.setV w).pc = s.pc := rfl
@[simp] theorem State.setV_stk (w : Vector Byte 16) : (s.setV w).stk = s.stk := rfl
@[simp] theorem State.setV_sp (w : Vector Byte 16) : (s.setV w).sp = s.sp := rfl
@[simp] theorem State.setV_dt (w : Vector Byte 16) : (s.setV w).dt = s.dt := rfl
@[simp] theorem State.setV_st (w : Vector Byte 16) : (s.setV w).st = s.st := rfl
@[simp] theorem State.setV_status (w : Vector Byte 16) : (s.setV w).status = s.status := rfl
@[simp] theorem State.setV_mem (w : Vector Byte 16) : (s.setV w).mem = s.mem := rfl
@[simp] theorem State.setV_fb (w : Vector Byte 16) : (s.setV w).fb = s.fb := rfl
@[simp] theorem State.setV_key (w : Vector Byte 16) : (s.setV w).key = s.key := rfl
@[simp] theorem State.setV_toneOn (w : Vector Byte 16) : (s.setV w).toneOn = s.toneOn := rfl
@[simp] theorem State.setV_renders (w : Vector Byte 16) : (s.setV w).renders = s.renders := rfl
@[simp] theorem State.setV_slot (w : Vector Byte 16) : (s.setV w).slot = s.slot := rfl
@[simp] theorem State.setV_draws (w : Vector Byte 16) : (s.setV w).draws = s.draws := rfl
@[simp] theorem State.setV_readByte (w : Vector Byte 16) (a : Nat) : (s.setV w).readByte a = s.readByte a := rfl
@[simp] theorem State.setV_pixel (w : Vector Byte 16) (r : Fin 32) (c : Fin 64) :
    (s.setV w).pixel r c = s.pixel r c := rfl
@[simp] theorem State.setV_keyHeld (w : Vector Byte 16) (vx : Byte) : (s.setV w).keyHeld vx = s.keyHeld vx := rfl

/-! ### setI -/

@[simp] theorem State.setI_v (w : Word) : (s.setI w).v = s.v := rfl
@[simp] theorem State.setI_idx (w : Word) : (s.setI w).idx = w := rfl
@[simp] theorem State.setI_pc (w : Word) : (s.setI w).pc = s.pc := rfl
@[simp] theorem State.setI_stk (w : Word) : (s.setI w).stk = s.stk := rfl
@[simp] theorem State.setI_sp (w : Word) : (s.setI w).sp = s.sp := rfl
@[simp] theorem State.setI_dt (w : Word) : (s.setI w).dt = s.dt := rfl
@[simp] theorem State.setI_st (w : Word) : (s.setI w).st = s.st := rfl
@[simp] theorem State.setI_status (w : Word) : (s.setI w).status = s.status := rfl
@[simp] theorem State.setI_mem (w : Word) : (s.setI w).mem = s.mem := rfl
@[simp] theorem State.setI_fb (w : Word) : (s.setI w).fb = s.fb := rfl
@[simp] theorem State.setI_key (w : Word) : (s.setI w).key = s.key := rfl
@[simp] theorem State.setI_toneOn (w : Word) : (s.setI w).toneOn = s.toneOn := rfl
@[simp] theorem State.setI_renders (w : Word) : (s.setI w).renders = s.renders := rfl
@[simp] theorem State.setI_slot (w : Word) : (s.setI w).slot = s.slot := rfl
@[simp] theorem State.setI_draws (w : Word) : (s.setI w).draws = s.draws := rfl
@[simp] theorem State.setI_readV (w : Word) (r : Reg) : (s.setI w).readV r = s.readV r := rfl
@[simp] theorem State.setI_readByte (w : Word) (a : Nat) : (s.setI w).readByte a = s.readByte a := rfl
@[simp] theorem State.setI_pixel (w : Word) (r : Fin 32) (c : Fin 64) : (s.setI w).pixel r c = s.pixel r c := rfl
@[simp] theorem State.setI_keyHeld (w : Word) (vx : Byte) : (s.setI w).keyHeld vx = s.keyHeld vx := rfl

/-! ### setPC -/

@[simp] theorem State.setPC_v (w : Word) : (s.setPC w).v = s.v := rfl
@[simp] theorem State.setPC_idx (w : Word) : (s.setPC w).idx = s.idx := rfl
@[simp] theorem State.setPC_pc (w : Word) : (s.setPC w).pc = w := rfl
@[simp] theorem State.setPC_stk (w : Word) : (s.setPC w).stk = s.stk := rfl
@[simp] theorem State.setPC_sp (w : Word) : (s.setPC w).sp = s.sp := rfl
@[simp] theorem State.setPC_dt (w : Word) : (s.setPC w).dt = s.dt := rfl
@[simp] theorem State.setPC_st (w : Word) : (s.setPC w).st = s.st := rfl
@[simp] theorem State.setPC_status (w : Word) : (s.setPC w).status = s.status := rfl
@[simp] theorem State.setPC_mem (w : Word) : (s.setPC w).mem = s.mem := rfl
@[simp] theorem State.setPC_fb (w : Word) : (s.setPC w).fb = s.fb := rfl
@[simp] theorem State.setPC_key (w : Word) : (s.setPC w).key = s.key := rfl
@[simp] theorem State.setPC_toneOn (w : Word) : (s.setPC w).toneOn = s.toneOn := rfl
@[simp] theorem State.setPC_renders (w : Word) : (s.setPC w).renders = s.renders := rfl
@[simp] theorem State.setPC_slot (w : Word) : (s.setPC w).slot = s.slot := rfl
@[simp] theorem State.setPC_draws (w : Word) : (s.setPC w).draws = s.draws := rfl
@[simp] theorem State.setPC_readV (w : Word) (r : Reg) : (s.setPC w).readV r = s.readV r := rfl
@[simp] theorem State.setPC_readByte (w : Word) (a : Nat) : (s.setPC w).readByte a = s.readByte a := rfl
@[simp] theorem State.setPC_pixel (w : Word) (r : Fin 32) (c : Fin 64) : (s.setPC w).pixel r c = s.pixel r c := rfl
@[simp] theorem State.setPC_keyHeld (w : Word) (vx : Byte) : (s.setPC w).keyHeld vx = s.keyHeld vx := rfl

/-! ### setStack -/

@[simp] theorem State.setStack_v (k : Vector Word 16) (n : Fin 17) : (s.setStack k n).v = s.v := rfl
@[simp] theorem State.setStack_idx (k : Vector Word 16) (n : Fin 17) : (s.setStack k n).idx = s.idx := rfl
@[simp] theorem State.setStack_pc (k : Vector Word 16) (n : Fin 17) : (s.setStack k n).pc = s.pc := rfl
@[simp] theorem State.setStack_stk (k : Vector Word 16) (n : Fin 17) : (s.setStack k n).stk = k := rfl
@[simp] theorem State.setStack_sp (k : Vector Word 16) (n : Fin 17) : (s.setStack k n).sp = n := rfl
@[simp] theorem State.setStack_dt (k : Vector Word 16) (n : Fin 17) : (s.setStack k n).dt = s.dt := rfl
@[simp] theorem State.setStack_st (k : Vector Word 16) (n : Fin 17) : (s.setStack k n).st = s.st := rfl
@[simp] theorem State.setStack_status (k : Vector Word 16) (n : Fin 17) : (s.setStack k n).status = s.status := rfl
@[simp] theorem State.setStack_mem (k : Vector Word 16) (n : Fin 17) : (s.setStack k n).mem = s.mem := rfl
@[simp] theorem State.setStack_fb (k : Vector Word 16) (n : Fin 17) : (s.setStack k n).fb = s.fb := rfl
@[simp] theorem State.setStack_key (k : Vector Word 16) (n : Fin 17) : (s.setStack k n).key = s.key := rfl
@[simp] theorem State.setStack_toneOn (k : Vector Word 16) (n : Fin 17) : (s.setStack k n).toneOn = s.toneOn := rfl
@[simp] theorem State.setStack_renders (k : Vector Word 16) (n : Fin 17) : (s.setStack k n).renders = s.renders := rfl
@[simp] theorem State.setStack_slot (k : Vector Word 16) (n : Fin 17) : (s.setStack k n).slot = s.slot := rfl
@[simp] theorem State.setStack_draws (k : Vector Word 16) (n : Fin 17) : (s.setStack k n).draws = s.draws := rfl
@[simp] theorem State.setStack_readV (k : Vector Word 16) (n : Fin 17) (r : Reg) :
    (s.setStack k n).readV r = s.readV r := rfl
@[simp] theorem State.setStack_readByte (k : Vector Word 16) (n : Fin 17) (a : Nat) :
    (s.setStack k n).readByte a = s.readByte a := rfl
@[simp] theorem State.setStack_pixel (k : Vector Word 16) (n : Fin 17) (r : Fin 32) (c : Fin 64) :
    (s.setStack k n).pixel r c = s.pixel r c := rfl
@[simp] theorem State.setStack_keyHeld (k : Vector Word 16) (n : Fin 17) (vx : Byte) :
    (s.setStack k n).keyHeld vx = s.keyHeld vx := rfl

/-! ### setDT -/

@[simp] theorem State.setDT_v (b : Byte) : (s.setDT b).v = s.v := rfl
@[simp] theorem State.setDT_idx (b : Byte) : (s.setDT b).idx = s.idx := rfl
@[simp] theorem State.setDT_pc (b : Byte) : (s.setDT b).pc = s.pc := rfl
@[simp] theorem State.setDT_stk (b : Byte) : (s.setDT b).stk = s.stk := rfl
@[simp] theorem State.setDT_sp (b : Byte) : (s.setDT b).sp = s.sp := rfl
@[simp] theorem State.setDT_dt (b : Byte) : (s.setDT b).dt = b := rfl
@[simp] theorem State.setDT_st (b : Byte) : (s.setDT b).st = s.st := rfl
@[simp] theorem State.setDT_status (b : Byte) : (s.setDT b).status = s.status := rfl
@[simp] theorem State.setDT_mem (b : Byte) : (s.setDT b).mem = s.mem := rfl
@[simp] theorem State.setDT_fb (b : Byte) : (s.setDT b).fb = s.fb := rfl
@[simp] theorem State.setDT_key (b : Byte) : (s.setDT b).key = s.key := rfl
@[simp] theorem State.setDT_toneOn (b : Byte) : (s.setDT b).toneOn = s.toneOn := rfl
@[simp] theorem State.setDT_renders (b : Byte) : (s.setDT b).renders = s.renders := rfl
@[simp] theorem State.setDT_slot (b : Byte) : (s.setDT b).slot = s.slot := rfl
@[simp] theorem State.setDT_draws (b : Byte) : (s.setDT b).draws = s.draws := rfl
@[simp] theorem State.setDT_readV (b : Byte) (r : Reg) : (s.setDT b).readV r = s.readV r := rfl
@[simp] theorem State.setDT_readByte (b : Byte) (a : Nat) : (s.setDT b).readByte a = s.readByte a := rfl
@[simp] theorem State.setDT_pixel (b : Byte) (r : Fin 32) (c : Fin 64) : (s.setDT b).pixel r c = s.pixel r c := rfl
@[simp] theorem State.setDT_keyHeld (b : Byte) (vx : Byte) : (s.setDT b).keyHeld vx = s.keyHeld vx := rfl

/-! ### setST -/

@[simp] theorem State.setST_v (b : Byte) : (s.setST b).v = s.v := rfl
@[simp] theorem State.setST_idx (b : Byte) : (s.setST b).idx = s.idx := rfl
@[simp] theorem State.setST_pc (b : Byte) : (s.setST b).pc = s.pc := rfl
@[simp] theorem State.setST_stk (b : Byte) : (s.setST b).stk = s.stk := rfl
@[simp] theorem State.setST_sp (b : Byte) : (s.setST b).sp = s.sp := rfl
@[simp] theorem State.setST_dt (b : Byte) : (s.setST b).dt = s.dt := rfl
@[simp] theorem State.setST_st (b : Byte) : (s.setST b).st = b := rfl
@[simp] theorem State.setST_status (b : Byte) : (s.setST b).status = s.status := rfl
@[simp] theorem State.setST_mem (b : Byte) : (s.setST b).mem = s.mem := rfl
@[simp] theorem State.setST_fb (b : Byte) : (s.setST b).fb = s.fb := rfl
@[simp] theorem State.setST_key (b : Byte) : (s.setST b).key = s.key := rfl
@[simp] theorem State.setST_toneOn (b : Byte) : (s.setST b).toneOn = s.toneOn := rfl
@[simp] theorem State.setST_renders (b : Byte) : (s.setST b).renders = s.renders := rfl
@[simp] theorem State.setST_slot (b : Byte) : (s.setST b).slot = s.slot := rfl
@[simp] theorem State.setST_draws (b : Byte) : (s.setST b).draws = s.draws := rfl
@[simp] theorem State.setST_readV (b : Byte) (r : Reg) : (s.setST b).readV r = s.readV r := rfl
@[simp] theorem State.setST_readByte (b : Byte) (a : Nat) : (s.setST b).readByte a = s.readByte a := rfl
@[simp] theorem State.setST_pixel (b : Byte) (r : Fin 32) (c : Fin 64) : (s.setST b).pixel r c = s.pixel r c := rfl
@[simp] theorem State.setST_keyHeld (b : Byte) (vx : Byte) : (s.setST b).keyHeld vx = s.keyHeld vx := rfl

/-! ### setStatus -/

@[simp] theorem State.setStatus_v (w : Status) : (s.setStatus w).v = s.v := rfl
@[simp] theorem State.setStatus_idx (w : Status) : (s.setStatus w).idx = s.idx := rfl
@[simp] theorem State.setStatus_pc (w : Status) : (s.setStatus w).pc = s.pc := rfl
@[simp] theorem State.setStatus_stk (w : Status) : (s.setStatus w).stk = s.stk := rfl
@[simp] theorem State.setStatus_sp (w : Status) : (s.setStatus w).sp = s.sp := rfl
@[simp] theorem State.setStatus_dt (w : Status) : (s.setStatus w).dt = s.dt := rfl
@[simp] theorem State.setStatus_st (w : Status) : (s.setStatus w).st = s.st := rfl
@[simp] theorem State.setStatus_status (w : Status) : (s.setStatus w).status = w := rfl
@[simp] theorem State.setStatus_mem (w : Status) : (s.setStatus w).mem = s.mem := rfl
@[simp] theorem State.setStatus_fb (w : Status) : (s.setStatus w).fb = s.fb := rfl
@[simp] theorem State.setStatus_key (w : Status) : (s.setStatus w).key = s.key := rfl
@[simp] theorem State.setStatus_toneOn (w : Status) : (s.setStatus w).toneOn = s.toneOn := rfl
@[simp] theorem State.setStatus_renders (w : Status) : (s.setStatus w).renders = s.renders := rfl
@[simp] theorem State.setStatus_slot (w : Status) : (s.setStatus w).slot = s.slot := rfl
@[simp] theorem State.setStatus_draws (w : Status) : (s.setStatus w).draws = s.draws := rfl
@[simp] theorem State.setStatus_readV (w : Status) (r : Reg) : (s.setStatus w).readV r = s.readV r := rfl
@[simp] theorem State.setStatus_readByte (w : Status) (a : Nat) : (s.setStatus w).readByte a = s.readByte a := rfl
@[simp] theorem State.setStatus_pixel (w : Status) (r : Fin 32) (c : Fin 64) :
    (s.setStatus w).pixel r c = s.pixel r c := rfl
@[simp] theorem State.setStatus_keyHeld (w : Status) (vx : Byte) : (s.setStatus w).keyHeld vx = s.keyHeld vx := rfl

/-! ### setMem -/

@[simp] theorem State.setMem_v (m : Memory) : (s.setMem m).v = s.v := rfl
@[simp] theorem State.setMem_idx (m : Memory) : (s.setMem m).idx = s.idx := rfl
@[simp] theorem State.setMem_pc (m : Memory) : (s.setMem m).pc = s.pc := rfl
@[simp] theorem State.setMem_stk (m : Memory) : (s.setMem m).stk = s.stk := rfl
@[simp] theorem State.setMem_sp (m : Memory) : (s.setMem m).sp = s.sp := rfl
@[simp] theorem State.setMem_dt (m : Memory) : (s.setMem m).dt = s.dt := rfl
@[simp] theorem State.setMem_st (m : Memory) : (s.setMem m).st = s.st := rfl
@[simp] theorem State.setMem_status (m : Memory) : (s.setMem m).status = s.status := rfl
@[simp] theorem State.setMem_mem (m : Memory) : (s.setMem m).mem = m := rfl
@[simp] theorem State.setMem_fb (m : Memory) : (s.setMem m).fb = s.fb := rfl
@[simp] theorem State.setMem_key (m : Memory) : (s.setMem m).key = s.key := rfl
@[simp] theorem State.setMem_toneOn (m : Memory) : (s.setMem m).toneOn = s.toneOn := rfl
@[simp] theorem State.setMem_renders (m : Memory) : (s.setMem m).renders = s.renders := rfl
@[simp] theorem State.setMem_slot (m : Memory) : (s.setMem m).slot = s.slot := rfl
@[simp] theorem State.setMem_draws (m : Memory) : (s.setMem m).draws = s.draws := rfl
@[simp] theorem State.setMem_readV (m : Memory) (r : Reg) : (s.setMem m).readV r = s.readV r := rfl
@[simp] theorem State.setMem_pixel (m : Memory) (r : Fin 32) (c : Fin 64) : (s.setMem m).pixel r c = s.pixel r c := rfl
@[simp] theorem State.setMem_keyHeld (m : Memory) (vx : Byte) : (s.setMem m).keyHeld vx = s.keyHeld vx := rfl

/-! ### setFB -/

@[simp] theorem State.setFB_v (g : Grid) : (s.setFB g).v = s.v := rfl
@[simp] theorem State.setFB_idx (g : Grid) : (s.setFB g).idx = s.idx := rfl
@[simp] theorem State.setFB_pc (g : Grid) : (s.setFB g).pc = s.pc := rfl
@[simp] theorem State.setFB_stk (g : Grid) : (s.setFB g).stk = s.stk := rfl
@[simp] theorem State.setFB_sp (g : Grid) : (s.setFB g).sp = s.sp := rfl
@[simp] theorem State.setFB_dt (g : Grid) : (s.setFB g).dt = s.dt := rfl
@[simp] theorem State.setFB_st (g : Grid) : (s.setFB g).st = s.st := rfl
@[simp] theorem State.setFB_status (g : Grid) : (s.setFB g).status = s.status := rfl
@[simp] theorem State.setFB_mem (g : Grid) : (s.setFB g).mem = s.mem := rfl
@[simp] theorem State.setFB_fb (g : Grid) : (s.setFB g).fb = g := rfl
@[simp] theorem State.setFB_key (g : Grid) : (s.setFB g).key = s.key := rfl
@[simp] theorem State.setFB_toneOn (g : Grid) : (s.setFB g).toneOn = s.toneOn := rfl
@[simp] theorem State.setFB_renders (g : Grid) : (s.setFB g).renders = s.renders := rfl
@[simp] theorem State.setFB_slot (g : Grid) : (s.setFB g).slot = s.slot := rfl
@[simp] theorem State.setFB_draws (g : Grid) : (s.setFB g).draws = s.draws := rfl
@[simp] theorem State.setFB_readV (g : Grid) (r : Reg) : (s.setFB g).readV r = s.readV r := rfl
@[simp] theorem State.setFB_readByte (g : Grid) (a : Nat) : (s.setFB g).readByte a = s.readByte a := rfl
@[simp] theorem State.setFB_keyHeld (g : Grid) (vx : Byte) : (s.setFB g).keyHeld vx = s.keyHeld vx := rfl

/-! ### setKey -/

@[simp] theorem State.setKey_v (k : BitVec 16) : (s.setKey k).v = s.v := rfl
@[simp] theorem State.setKey_idx (k : BitVec 16) : (s.setKey k).idx = s.idx := rfl
@[simp] theorem State.setKey_pc (k : BitVec 16) : (s.setKey k).pc = s.pc := rfl
@[simp] theorem State.setKey_stk (k : BitVec 16) : (s.setKey k).stk = s.stk := rfl
@[simp] theorem State.setKey_sp (k : BitVec 16) : (s.setKey k).sp = s.sp := rfl
@[simp] theorem State.setKey_dt (k : BitVec 16) : (s.setKey k).dt = s.dt := rfl
@[simp] theorem State.setKey_st (k : BitVec 16) : (s.setKey k).st = s.st := rfl
@[simp] theorem State.setKey_status (k : BitVec 16) : (s.setKey k).status = s.status := rfl
@[simp] theorem State.setKey_mem (k : BitVec 16) : (s.setKey k).mem = s.mem := rfl
@[simp] theorem State.setKey_fb (k : BitVec 16) : (s.setKey k).fb = s.fb := rfl
@[simp] theorem State.setKey_key (k : BitVec 16) : (s.setKey k).key = k := rfl
@[simp] theorem State.setKey_toneOn (k : BitVec 16) : (s.setKey k).toneOn = s.toneOn := rfl
@[simp] theorem State.setKey_renders (k : BitVec 16) : (s.setKey k).renders = s.renders := rfl
@[simp] theorem State.setKey_slot (k : BitVec 16) : (s.setKey k).slot = s.slot := rfl
@[simp] theorem State.setKey_draws (k : BitVec 16) : (s.setKey k).draws = s.draws := rfl
@[simp] theorem State.setKey_readV (k : BitVec 16) (r : Reg) : (s.setKey k).readV r = s.readV r := rfl
@[simp] theorem State.setKey_readByte (k : BitVec 16) (a : Nat) : (s.setKey k).readByte a = s.readByte a := rfl
@[simp] theorem State.setKey_pixel (k : BitVec 16) (r : Fin 32) (c : Fin 64) :
    (s.setKey k).pixel r c = s.pixel r c := rfl

/-! ### setOutputs -/

@[simp] theorem State.setOutputs_v (o : Bool) : (s.setOutputs o).v = s.v := rfl
@[simp] theorem State.setOutputs_idx (o : Bool) : (s.setOutputs o).idx = s.idx := rfl
@[simp] theorem State.setOutputs_pc (o : Bool) : (s.setOutputs o).pc = s.pc := rfl
@[simp] theorem State.setOutputs_stk (o : Bool) : (s.setOutputs o).stk = s.stk := rfl
@[simp] theorem State.setOutputs_sp (o : Bool) : (s.setOutputs o).sp = s.sp := rfl
@[simp] theorem State.setOutputs_dt (o : Bool) : (s.setOutputs o).dt = s.dt := rfl
@[simp] theorem State.setOutputs_st (o : Bool) : (s.setOutputs o).st = s.st := rfl
@[simp] theorem State.setOutputs_status (o : Bool) : (s.setOutputs o).status = s.status := rfl
@[simp] theorem State.setOutputs_mem (o : Bool) : (s.setOutputs o).mem = s.mem := rfl
@[simp] theorem State.setOutputs_fb (o : Bool) : (s.setOutputs o).fb = s.fb := rfl
@[simp] theorem State.setOutputs_key (o : Bool) : (s.setOutputs o).key = s.key := rfl
@[simp] theorem State.setOutputs_toneOn (o : Bool) : (s.setOutputs o).toneOn = o := rfl
@[simp] theorem State.setOutputs_renders (o : Bool) : (s.setOutputs o).renders = s.renders + 1 := rfl
@[simp] theorem State.setOutputs_slot (o : Bool) : (s.setOutputs o).slot = s.slot := rfl
@[simp] theorem State.setOutputs_draws (o : Bool) : (s.setOutputs o).draws = s.draws := rfl
@[simp] theorem State.setOutputs_readV (o : Bool) (r : Reg) : (s.setOutputs o).readV r = s.readV r := rfl
@[simp] theorem State.setOutputs_readByte (o : Bool) (a : Nat) : (s.setOutputs o).readByte a = s.readByte a := rfl
@[simp] theorem State.setOutputs_pixel (o : Bool) (r : Fin 32) (c : Fin 64) :
    (s.setOutputs o).pixel r c = s.pixel r c := rfl
@[simp] theorem State.setOutputs_keyHeld (o : Bool) (vx : Byte) : (s.setOutputs o).keyHeld vx = s.keyHeld vx := rfl

/-! ### setSlot -/

@[simp] theorem State.setSlot_v (n : Nat) : (s.setSlot n).v = s.v := rfl
@[simp] theorem State.setSlot_idx (n : Nat) : (s.setSlot n).idx = s.idx := rfl
@[simp] theorem State.setSlot_pc (n : Nat) : (s.setSlot n).pc = s.pc := rfl
@[simp] theorem State.setSlot_stk (n : Nat) : (s.setSlot n).stk = s.stk := rfl
@[simp] theorem State.setSlot_sp (n : Nat) : (s.setSlot n).sp = s.sp := rfl
@[simp] theorem State.setSlot_dt (n : Nat) : (s.setSlot n).dt = s.dt := rfl
@[simp] theorem State.setSlot_st (n : Nat) : (s.setSlot n).st = s.st := rfl
@[simp] theorem State.setSlot_status (n : Nat) : (s.setSlot n).status = s.status := rfl
@[simp] theorem State.setSlot_mem (n : Nat) : (s.setSlot n).mem = s.mem := rfl
@[simp] theorem State.setSlot_fb (n : Nat) : (s.setSlot n).fb = s.fb := rfl
@[simp] theorem State.setSlot_key (n : Nat) : (s.setSlot n).key = s.key := rfl
@[simp] theorem State.setSlot_toneOn (n : Nat) : (s.setSlot n).toneOn = s.toneOn := rfl
@[simp] theorem State.setSlot_renders (n : Nat) : (s.setSlot n).renders = s.renders := rfl
@[simp] theorem State.setSlot_slot (n : Nat) : (s.setSlot n).slot = n := rfl
@[simp] theorem State.setSlot_draws (n : Nat) : (s.setSlot n).draws = s.draws := rfl
@[simp] theorem State.setSlot_readV (n : Nat) (r : Reg) : (s.setSlot n).readV r = s.readV r := rfl
@[simp] theorem State.setSlot_readByte (n : Nat) (a : Nat) : (s.setSlot n).readByte a = s.readByte a := rfl
@[simp] theorem State.setSlot_pixel (n : Nat) (r : Fin 32) (c : Fin 64) : (s.setSlot n).pixel r c = s.pixel r c := rfl
@[simp] theorem State.setSlot_keyHeld (n : Nat) (vx : Byte) : (s.setSlot n).keyHeld vx = s.keyHeld vx := rfl

/-! ### countDraw -/

@[simp] theorem State.countDraw_v : s.countDraw.v = s.v := rfl
@[simp] theorem State.countDraw_idx : s.countDraw.idx = s.idx := rfl
@[simp] theorem State.countDraw_pc : s.countDraw.pc = s.pc := rfl
@[simp] theorem State.countDraw_stk : s.countDraw.stk = s.stk := rfl
@[simp] theorem State.countDraw_sp : s.countDraw.sp = s.sp := rfl
@[simp] theorem State.countDraw_dt : s.countDraw.dt = s.dt := rfl
@[simp] theorem State.countDraw_st : s.countDraw.st = s.st := rfl
@[simp] theorem State.countDraw_status : s.countDraw.status = s.status := rfl
@[simp] theorem State.countDraw_mem : s.countDraw.mem = s.mem := rfl
@[simp] theorem State.countDraw_fb : s.countDraw.fb = s.fb := rfl
@[simp] theorem State.countDraw_key : s.countDraw.key = s.key := rfl
@[simp] theorem State.countDraw_toneOn : s.countDraw.toneOn = s.toneOn := rfl
@[simp] theorem State.countDraw_renders : s.countDraw.renders = s.renders := rfl
@[simp] theorem State.countDraw_slot : s.countDraw.slot = s.slot := rfl
@[simp] theorem State.countDraw_draws : s.countDraw.draws = s.draws + 1 := rfl
@[simp] theorem State.countDraw_readV (r : Reg) : s.countDraw.readV r = s.readV r := rfl
@[simp] theorem State.countDraw_readByte (a : Nat) : s.countDraw.readByte a = s.readByte a := rfl
@[simp] theorem State.countDraw_pixel (r : Fin 32) (c : Fin 64) : s.countDraw.pixel r c = s.pixel r c := rfl
@[simp] theorem State.countDraw_keyHeld (vx : Byte) : s.countDraw.keyHeld vx = s.keyHeld vx := rfl

/-! ### raise -/

@[simp] theorem State.raise_v (e : FatalError) : (s.raise e).v = s.v := rfl
@[simp] theorem State.raise_idx (e : FatalError) : (s.raise e).idx = s.idx := rfl
@[simp] theorem State.raise_pc (e : FatalError) : (s.raise e).pc = s.pc := rfl
@[simp] theorem State.raise_stk (e : FatalError) : (s.raise e).stk = s.stk := rfl
@[simp] theorem State.raise_sp (e : FatalError) : (s.raise e).sp = s.sp := rfl
@[simp] theorem State.raise_dt (e : FatalError) : (s.raise e).dt = s.dt := rfl
@[simp] theorem State.raise_st (e : FatalError) : (s.raise e).st = s.st := rfl
@[simp] theorem State.raise_status (e : FatalError) : (s.raise e).status = .dead e := rfl
@[simp] theorem State.raise_mem (e : FatalError) : (s.raise e).mem = s.mem := rfl
@[simp] theorem State.raise_fb (e : FatalError) : (s.raise e).fb = s.fb := rfl
@[simp] theorem State.raise_key (e : FatalError) : (s.raise e).key = s.key := rfl
@[simp] theorem State.raise_toneOn (e : FatalError) : (s.raise e).toneOn = s.toneOn := rfl
@[simp] theorem State.raise_renders (e : FatalError) : (s.raise e).renders = s.renders := rfl
@[simp] theorem State.raise_slot (e : FatalError) : (s.raise e).slot = s.slot := rfl
@[simp] theorem State.raise_draws (e : FatalError) : (s.raise e).draws = s.draws := rfl
@[simp] theorem State.raise_readV (e : FatalError) (r : Reg) : (s.raise e).readV r = s.readV r := rfl
@[simp] theorem State.raise_readByte (e : FatalError) (a : Nat) : (s.raise e).readByte a = s.readByte a := rfl
@[simp] theorem State.raise_pixel (e : FatalError) (r : Fin 32) (c : Fin 64) :
    (s.raise e).pixel r c = s.pixel r c := rfl
@[simp] theorem State.raise_keyHeld (e : FatalError) (vx : Byte) : (s.raise e).keyHeld vx = s.keyHeld vx := rfl

/-! ### advance -/

@[simp] theorem State.advance_v : s.advance.v = s.v := rfl
@[simp] theorem State.advance_idx : s.advance.idx = s.idx := rfl
@[simp] theorem State.advance_pc : s.advance.pc = s.pc + 2 := rfl
@[simp] theorem State.advance_stk : s.advance.stk = s.stk := rfl
@[simp] theorem State.advance_sp : s.advance.sp = s.sp := rfl
@[simp] theorem State.advance_dt : s.advance.dt = s.dt := rfl
@[simp] theorem State.advance_st : s.advance.st = s.st := rfl
@[simp] theorem State.advance_status : s.advance.status = s.status := rfl
@[simp] theorem State.advance_mem : s.advance.mem = s.mem := rfl
@[simp] theorem State.advance_fb : s.advance.fb = s.fb := rfl
@[simp] theorem State.advance_key : s.advance.key = s.key := rfl
@[simp] theorem State.advance_toneOn : s.advance.toneOn = s.toneOn := rfl
@[simp] theorem State.advance_renders : s.advance.renders = s.renders := rfl
@[simp] theorem State.advance_slot : s.advance.slot = s.slot := rfl
@[simp] theorem State.advance_draws : s.advance.draws = s.draws := rfl
@[simp] theorem State.advance_readV (r : Reg) : s.advance.readV r = s.readV r := rfl
@[simp] theorem State.advance_readByte (a : Nat) : s.advance.readByte a = s.readByte a := rfl
@[simp] theorem State.advance_pixel (r : Fin 32) (c : Fin 64) : s.advance.pixel r c = s.pixel r c := rfl
@[simp] theorem State.advance_keyHeld (vx : Byte) : s.advance.keyHeld vx = s.keyHeld vx := rfl

/-! ### skipIf -/

@[simp] theorem State.skipIf_v (sk : Bool) : (s.skipIf sk).v = s.v := rfl
@[simp] theorem State.skipIf_idx (sk : Bool) : (s.skipIf sk).idx = s.idx := rfl
@[simp] theorem State.skipIf_pc (sk : Bool) : (s.skipIf sk).pc = if sk then s.pc + 2 + 2 else s.pc + 2 := rfl
@[simp] theorem State.skipIf_stk (sk : Bool) : (s.skipIf sk).stk = s.stk := rfl
@[simp] theorem State.skipIf_sp (sk : Bool) : (s.skipIf sk).sp = s.sp := rfl
@[simp] theorem State.skipIf_dt (sk : Bool) : (s.skipIf sk).dt = s.dt := rfl
@[simp] theorem State.skipIf_st (sk : Bool) : (s.skipIf sk).st = s.st := rfl
@[simp] theorem State.skipIf_status (sk : Bool) : (s.skipIf sk).status = s.status := rfl
@[simp] theorem State.skipIf_mem (sk : Bool) : (s.skipIf sk).mem = s.mem := rfl
@[simp] theorem State.skipIf_fb (sk : Bool) : (s.skipIf sk).fb = s.fb := rfl
@[simp] theorem State.skipIf_key (sk : Bool) : (s.skipIf sk).key = s.key := rfl
@[simp] theorem State.skipIf_toneOn (sk : Bool) : (s.skipIf sk).toneOn = s.toneOn := rfl
@[simp] theorem State.skipIf_renders (sk : Bool) : (s.skipIf sk).renders = s.renders := rfl
@[simp] theorem State.skipIf_slot (sk : Bool) : (s.skipIf sk).slot = s.slot := rfl
@[simp] theorem State.skipIf_draws (sk : Bool) : (s.skipIf sk).draws = s.draws := rfl
@[simp] theorem State.skipIf_readV (sk : Bool) (r : Reg) : (s.skipIf sk).readV r = s.readV r := rfl
@[simp] theorem State.skipIf_readByte (sk : Bool) (a : Nat) : (s.skipIf sk).readByte a = s.readByte a := rfl
@[simp] theorem State.skipIf_pixel (sk : Bool) (r : Fin 32) (c : Fin 64) : (s.skipIf sk).pixel r c = s.pixel r c := rfl
@[simp] theorem State.skipIf_keyHeld (sk : Bool) (vx : Byte) : (s.skipIf sk).keyHeld vx = s.keyHeld vx := rfl

/-! ### result -/

@[simp] theorem State.result_v (x : Reg) (b : Byte) : (s.result x b).v = s.v.set x b := rfl
@[simp] theorem State.result_idx (x : Reg) (b : Byte) : (s.result x b).idx = s.idx := rfl
@[simp] theorem State.result_pc (x : Reg) (b : Byte) : (s.result x b).pc = s.pc + 2 := rfl
@[simp] theorem State.result_stk (x : Reg) (b : Byte) : (s.result x b).stk = s.stk := rfl
@[simp] theorem State.result_sp (x : Reg) (b : Byte) : (s.result x b).sp = s.sp := rfl
@[simp] theorem State.result_dt (x : Reg) (b : Byte) : (s.result x b).dt = s.dt := rfl
@[simp] theorem State.result_st (x : Reg) (b : Byte) : (s.result x b).st = s.st := rfl
@[simp] theorem State.result_status (x : Reg) (b : Byte) : (s.result x b).status = s.status := rfl
@[simp] theorem State.result_mem (x : Reg) (b : Byte) : (s.result x b).mem = s.mem := rfl
@[simp] theorem State.result_fb (x : Reg) (b : Byte) : (s.result x b).fb = s.fb := rfl
@[simp] theorem State.result_key (x : Reg) (b : Byte) : (s.result x b).key = s.key := rfl
@[simp] theorem State.result_toneOn (x : Reg) (b : Byte) : (s.result x b).toneOn = s.toneOn := rfl
@[simp] theorem State.result_renders (x : Reg) (b : Byte) : (s.result x b).renders = s.renders := rfl
@[simp] theorem State.result_slot (x : Reg) (b : Byte) : (s.result x b).slot = s.slot := rfl
@[simp] theorem State.result_draws (x : Reg) (b : Byte) : (s.result x b).draws = s.draws := rfl
@[simp] theorem State.result_readByte (x : Reg) (b : Byte) (a : Nat) : (s.result x b).readByte a = s.readByte a := rfl
@[simp] theorem State.result_pixel (x : Reg) (b : Byte) (r : Fin 32) (c : Fin 64) :
    (s.result x b).pixel r c = s.pixel r c := rfl
@[simp] theorem State.result_keyHeld (x : Reg) (b : Byte) (vx : Byte) : (s.result x b).keyHeld vx = s.keyHeld vx := rfl

/-! ### flaggedResult -/

@[simp] theorem State.flaggedResult_v (x : Reg) (f b : Byte) : (s.flaggedResult x f b).v = (s.v.set VF f).set x b := rfl
@[simp] theorem State.flaggedResult_idx (x : Reg) (f b : Byte) : (s.flaggedResult x f b).idx = s.idx := rfl
@[simp] theorem State.flaggedResult_pc (x : Reg) (f b : Byte) : (s.flaggedResult x f b).pc = s.pc + 2 := rfl
@[simp] theorem State.flaggedResult_stk (x : Reg) (f b : Byte) : (s.flaggedResult x f b).stk = s.stk := rfl
@[simp] theorem State.flaggedResult_sp (x : Reg) (f b : Byte) : (s.flaggedResult x f b).sp = s.sp := rfl
@[simp] theorem State.flaggedResult_dt (x : Reg) (f b : Byte) : (s.flaggedResult x f b).dt = s.dt := rfl
@[simp] theorem State.flaggedResult_st (x : Reg) (f b : Byte) : (s.flaggedResult x f b).st = s.st := rfl
@[simp] theorem State.flaggedResult_status (x : Reg) (f b : Byte) : (s.flaggedResult x f b).status = s.status := rfl
@[simp] theorem State.flaggedResult_mem (x : Reg) (f b : Byte) : (s.flaggedResult x f b).mem = s.mem := rfl
@[simp] theorem State.flaggedResult_fb (x : Reg) (f b : Byte) : (s.flaggedResult x f b).fb = s.fb := rfl
@[simp] theorem State.flaggedResult_key (x : Reg) (f b : Byte) : (s.flaggedResult x f b).key = s.key := rfl
@[simp] theorem State.flaggedResult_toneOn (x : Reg) (f b : Byte) : (s.flaggedResult x f b).toneOn = s.toneOn := rfl
@[simp] theorem State.flaggedResult_renders (x : Reg) (f b : Byte) : (s.flaggedResult x f b).renders = s.renders := rfl
@[simp] theorem State.flaggedResult_slot (x : Reg) (f b : Byte) : (s.flaggedResult x f b).slot = s.slot := rfl
@[simp] theorem State.flaggedResult_draws (x : Reg) (f b : Byte) : (s.flaggedResult x f b).draws = s.draws := rfl
@[simp] theorem State.flaggedResult_readByte (x : Reg) (f b : Byte) (a : Nat) :
    (s.flaggedResult x f b).readByte a = s.readByte a := rfl
@[simp] theorem State.flaggedResult_pixel (x : Reg) (f b : Byte) (r : Fin 32) (c : Fin 64) :
    (s.flaggedResult x f b).pixel r c = s.pixel r c := rfl
@[simp] theorem State.flaggedResult_keyHeld (x : Reg) (f b : Byte) (vx : Byte) :
    (s.flaggedResult x f b).keyHeld vx = s.keyHeld vx := rfl

/-! ### writeFirstRegs -/

@[simp] theorem State.writeFirstRegs_v (bs : List Byte) : (s.writeFirstRegs bs).v = Vector.ofFn fun j : Fin 16 => bs.getD j.val s.v[j] := by
  rw [State.writeFirstRegs, State.setV_v]
@[simp] theorem State.writeFirstRegs_idx (bs : List Byte) : (s.writeFirstRegs bs).idx = s.idx := by
  rw [State.writeFirstRegs, State.setV_idx]
@[simp] theorem State.writeFirstRegs_pc (bs : List Byte) : (s.writeFirstRegs bs).pc = s.pc := by
  rw [State.writeFirstRegs, State.setV_pc]
@[simp] theorem State.writeFirstRegs_stk (bs : List Byte) : (s.writeFirstRegs bs).stk = s.stk := by
  rw [State.writeFirstRegs, State.setV_stk]
@[simp] theorem State.writeFirstRegs_sp (bs : List Byte) : (s.writeFirstRegs bs).sp = s.sp := by
  rw [State.writeFirstRegs, State.setV_sp]
@[simp] theorem State.writeFirstRegs_dt (bs : List Byte) : (s.writeFirstRegs bs).dt = s.dt := by
  rw [State.writeFirstRegs, State.setV_dt]
@[simp] theorem State.writeFirstRegs_st (bs : List Byte) : (s.writeFirstRegs bs).st = s.st := by
  rw [State.writeFirstRegs, State.setV_st]
@[simp] theorem State.writeFirstRegs_status (bs : List Byte) : (s.writeFirstRegs bs).status = s.status := by
  rw [State.writeFirstRegs, State.setV_status]
@[simp] theorem State.writeFirstRegs_mem (bs : List Byte) : (s.writeFirstRegs bs).mem = s.mem := by
  rw [State.writeFirstRegs, State.setV_mem]
@[simp] theorem State.writeFirstRegs_fb (bs : List Byte) : (s.writeFirstRegs bs).fb = s.fb := by
  rw [State.writeFirstRegs, State.setV_fb]
@[simp] theorem State.writeFirstRegs_key (bs : List Byte) : (s.writeFirstRegs bs).key = s.key := by
  rw [State.writeFirstRegs, State.setV_key]
@[simp] theorem State.writeFirstRegs_toneOn (bs : List Byte) : (s.writeFirstRegs bs).toneOn = s.toneOn := by
  rw [State.writeFirstRegs, State.setV_toneOn]
@[simp] theorem State.writeFirstRegs_renders (bs : List Byte) : (s.writeFirstRegs bs).renders = s.renders := by
  rw [State.writeFirstRegs, State.setV_renders]
@[simp] theorem State.writeFirstRegs_slot (bs : List Byte) : (s.writeFirstRegs bs).slot = s.slot := by
  rw [State.writeFirstRegs, State.setV_slot]
@[simp] theorem State.writeFirstRegs_draws (bs : List Byte) : (s.writeFirstRegs bs).draws = s.draws := by
  rw [State.writeFirstRegs, State.setV_draws]
@[simp] theorem State.writeFirstRegs_readByte (bs : List Byte) (a : Nat) : (s.writeFirstRegs bs).readByte a = s.readByte a := by
  rw [State.writeFirstRegs, State.setV_readByte]
@[simp] theorem State.writeFirstRegs_pixel (bs : List Byte) (r : Fin 32) (c : Fin 64) : (s.writeFirstRegs bs).pixel r c = s.pixel r c := by
  rw [State.writeFirstRegs, State.setV_pixel]
@[simp] theorem State.writeFirstRegs_keyHeld (bs : List Byte) (vx : Byte) : (s.writeFirstRegs bs).keyHeld vx = s.keyHeld vx := by
  rw [State.writeFirstRegs, State.setV_keyHeld]

/-! ### sampleKeys -/

@[simp] theorem State.sampleKeys_v : s.sampleKeys.v = s.v := rfl
@[simp] theorem State.sampleKeys_idx : s.sampleKeys.idx = s.idx := rfl
@[simp] theorem State.sampleKeys_pc : s.sampleKeys.pc = s.pc := rfl
@[simp] theorem State.sampleKeys_stk : s.sampleKeys.stk = s.stk := rfl
@[simp] theorem State.sampleKeys_sp : s.sampleKeys.sp = s.sp := rfl
@[simp] theorem State.sampleKeys_dt : s.sampleKeys.dt = s.dt := rfl
@[simp] theorem State.sampleKeys_st : s.sampleKeys.st = s.st := rfl
@[simp] theorem State.sampleKeys_status : s.sampleKeys.status = s.status := rfl
@[simp] theorem State.sampleKeys_mem : s.sampleKeys.mem = s.mem := rfl
@[simp] theorem State.sampleKeys_fb : s.sampleKeys.fb = s.fb := rfl
@[simp] theorem State.sampleKeys_key : s.sampleKeys.key = Config.keyLevels s.draws := rfl
@[simp] theorem State.sampleKeys_toneOn : s.sampleKeys.toneOn = s.toneOn := rfl
@[simp] theorem State.sampleKeys_renders : s.sampleKeys.renders = s.renders := rfl
@[simp] theorem State.sampleKeys_slot : s.sampleKeys.slot = s.slot := rfl
@[simp] theorem State.sampleKeys_draws : s.sampleKeys.draws = s.draws + 1 := rfl
@[simp] theorem State.sampleKeys_readV (r : Reg) : s.sampleKeys.readV r = s.readV r := rfl
@[simp] theorem State.sampleKeys_readByte (a : Nat) : s.sampleKeys.readByte a = s.readByte a := rfl
@[simp] theorem State.sampleKeys_pixel (r : Fin 32) (c : Fin 64) : s.sampleKeys.pixel r c = s.pixel r c := rfl

/-! ### Readings of the updated part -/

/-- A written register reads as the value written; every other register as before (R21). -/
@[simp] theorem State.writeV_readV (x : Reg) (b : Byte) (r : Reg) :
    (s.writeV x b).readV r = if r = x then b else s.readV r := by
  simp only [State.readV, State.writeV, Fin.getElem_fin, Vector.getElem_set, Fin.ext_iff, eq_comm]

@[simp] theorem State.result_readV (x : Reg) (b : Byte) (r : Reg) :
    (s.result x b).readV r = if r = x then b else s.readV r := by
  simp [State.result]

/-- The flag is written first, the result second (R120). -/
@[simp] theorem State.flaggedResult_readV (x : Reg) (f b : Byte) (r : Reg) :
    (s.flaggedResult x f b).readV r = if r = x then b else if r = VF then f else s.readV r := by
  simp [State.flaggedResult]

@[simp] theorem State.setMem_readByte (m : Memory) (a : Nat) : (s.setMem m).readByte a = m.read a := rfl

@[simp] theorem State.setV_readV (w : Vector Byte 16) (r : Reg) : (s.setV w).readV r = w[r] := rfl

/-- Two states with the same fields are the same. -/
theorem State.ext_fields {s t : State} (hv : s.v = t.v) (hidx : s.idx = t.idx) (hpc : s.pc = t.pc)
    (hstk : s.stk = t.stk) (hsp : s.sp = t.sp) (hdt : s.dt = t.dt) (hst : s.st = t.st)
    (hstatus : s.status = t.status) (hmem : s.mem = t.mem) (hfb : s.fb = t.fb) (hkey : s.key = t.key)
    (htone : s.toneOn = t.toneOn) (hrenders : s.renders = t.renders) (hslot : s.slot = t.slot)
    (hdraws : s.draws = t.draws) : s = t := by
  cases s; cases t; simp_all

end Sys2Proof.Machine
end

