-- ==== Sys2Proof/Laws/Ops.lean ====
section
/-! SUPPORT. For each shared operation, what it can do, said once. -/

namespace Sys2Proof.Machine

/-! ### Operands and flags -/

@[simp] theorem zext16OfAddr_toNat (nnn : Addr) : (zext16OfAddr nnn).toNat = nnn.toNat := by
  simp only [zext16OfAddr, BitVec.toNat_setWidth]; omega

@[simp] theorem zext16OfByte_toNat (b : Byte) : (zext16OfByte b).toNat = b.toNat := by
  simp only [zext16OfByte, BitVec.toNat_setWidth]; omega

/-- The glyph address is five times the byte, with no wrap (R143). -/
@[simp] theorem glyphAddr_toNat (b : Byte) : (glyphAddr b).toNat = b.toNat * 5 := by
  simp only [glyphAddr, BitVec.toNat_ofNat, Config.fontStride]; omega

@[simp] theorem flagOf_toNat (c : Bool) : (flagOf c).toNat = if c then 1 else 0 := by cases c <;> rfl

@[simp] theorem bcdDigits_length (b : Byte) : (bcdDigits b).length = 3 := rfl

/-! ### Fetch -/

/-- Fetch succeeds exactly when both bytes are inside the memory; otherwise it records the lowest address outside
(R71, R173). -/
theorem State.fetch_eq (s : State) :
    s.fetch =
      if s.pc.toNat < 4095 then .ok (wordOfBytes (s.readByte s.pc.toNat) (s.readByte (s.pc.toNat + 1)))
      else .error (.memoryOutOfBounds (max s.pc.toNat 4096)) := by
  unfold State.fetch State.memRead
  simp only [Config.memSize]
  rcases Nat.lt_trichotomy s.pc.toNat 4095 with h | h | h
  · rw [if_pos (by omega), if_pos (by omega), if_pos h]
  · rw [if_pos (by omega), if_neg (by omega), if_neg (by omega), h]; rfl
  · rw [if_neg (by omega), if_neg (by omega), if_neg (by omega), Nat.max_eq_left (by omega)]

theorem State.fetch_ok {s : State} {w : Word} (h : s.fetch = .ok w) :
    s.pc.toNat < 4095 ∧ w = wordOfBytes (s.readByte s.pc.toNat) (s.readByte (s.pc.toNat + 1)) := by
  rw [State.fetch_eq] at h
  split at h
  · cases h; exact ⟨‹_›, rfl⟩
  · cases h

/-- Fetch reads PC and memory only. -/
theorem State.fetch_congr {s t : State} (hpc : s.pc = t.pc) (hmem : s.mem = t.mem) : s.fetch = t.fetch := by
  simp only [State.fetch_eq, State.readByte, hpc, hmem]

/-! ### Call stack -/

theorem State.push_eq {s : State} (w : Word) (h : s.sp.val < 16) :
    s.push w = .ok (s.setStack (s.stk.set s.sp.val w h) ⟨s.sp.val + 1, by omega⟩) := dif_pos h

theorem State.push_full {s : State} (w : Word) (h : s.sp.val = 16) : s.push w = .error (.stackOverflow w) :=
  dif_neg (by simp [h])

theorem State.pop_empty {s : State} (h : s.sp.val = 0) : s.pop = .error .stackUnderflow := by
  unfold State.pop
  split
  · rfl
  · rename_i heq; simp [heq] at h

theorem State.pop_eq {s : State} (h : 0 < s.sp.val) :
    s.pop = .ok (s.stk[s.sp.val - 1], s.setStack s.stk ⟨s.sp.val - 1, by omega⟩) := by
  unfold State.pop
  split
  · rename_i heq; simp [heq] at h
  · rename_i n hn heq; simp [heq]

/-! ### The range from `I` -/

theorem State.rangeError_none {s : State} {len : Nat} (h : len = 0 ∨ s.idx.toNat + len ≤ 4096) :
    s.rangeError len = none := if_neg (by omega)

theorem State.rangeError_some {s : State} {len : Nat} (h : 1 ≤ len) (h2 : 4096 < s.idx.toNat + len) :
    s.rangeError len = some (.memoryOutOfBounds (max s.idx.toNat 4096)) := if_pos (by omega)

/-- The two outcomes of the range check (R57). -/
theorem State.rangeError_cases (s : State) (len : Nat) :
    (s.rangeError len = none ∧ (len = 0 ∨ s.idx.toNat + len ≤ 4096)) ∨
      (s.rangeError len = some (.memoryOutOfBounds (max s.idx.toNat 4096)) ∧ 1 ≤ len ∧
        4096 < s.idx.toNat + len) := by
  unfold State.rangeError
  split
  · exact .inr ⟨rfl, by omega, by omega⟩
  · exact .inl ⟨rfl, by omega⟩

theorem State.loadAtI_ok {s : State} {len : Nat} (h : len = 0 ∨ s.idx.toNat + len ≤ 4096) :
    s.loadAtI len = .ok ((List.range len).map fun k => s.readByte (s.idx.toNat + k)) := by
  simp only [State.loadAtI, State.rangeError_none h]

theorem State.loadAtI_error {s : State} {len : Nat} (h : 1 ≤ len) (h2 : 4096 < s.idx.toNat + len) :
    s.loadAtI len = .error (.memoryOutOfBounds (max s.idx.toNat 4096)) := by
  simp only [State.loadAtI, State.rangeError_some h h2]

theorem State.storeAtI_ok {s : State} {bs : List Byte} (h : bs.length = 0 ∨ s.idx.toNat + bs.length ≤ 4096) :
    s.storeAtI bs = .ok (s.setMem (s.mem.writeBytes s.idx.toNat bs)) := by
  simp only [State.storeAtI, State.rangeError_none h]

theorem State.storeAtI_error {s : State} {bs : List Byte} (h : 1 ≤ bs.length)
    (h2 : 4096 < s.idx.toNat + bs.length) :
    s.storeAtI bs = .error (.memoryOutOfBounds (max s.idx.toNat 4096)) := by
  simp only [State.storeAtI, State.rangeError_some h h2]

/-! ### The first registers -/

@[simp] theorem State.firstRegs_length (s : State) (x : Reg) : (s.firstRegs x).length = x.val := by
  simp [State.firstRegs]

theorem State.firstRegs_getD (s : State) (x : Reg) (j : Reg) (h : j.val < x.val) (d : Byte) :
    (s.firstRegs x).getD j.val d = s.readV j := by
  simp [State.firstRegs, State.readV, List.getD, h]

@[simp] theorem State.writeFirstRegs_readV (s : State) (bs : List Byte) (r : Reg) :
    (s.writeFirstRegs bs).readV r = bs.getD r.val (s.readV r) := by
  simp [State.writeFirstRegs, State.readV, State.setV]

/-! ### Ends of an instruction -/

@[simp] theorem State.commit_ok (s t : State) : s.commit (.ok t) = .next t := rfl

@[simp] theorem State.commit_error (s : State) (e : FatalError) : s.commit (.error e) = .next (s.raise e) := rfl

/-- After a fatal error nothing but `status` differs (R176). -/
theorem State.raise_died (s : State) (e : FatalError) : Died e s (s.raise e) := ⟨rfl, rfl⟩

/-- Settling a completed execute phase: its state when alive, else the death taken from the state before (R176). -/
theorem State.settle_next (s t : State) :
    (∃ e, t.status = .dead e ∧ s.settle (.next t) = .next (s.raise e)) ∨
      (t.alive = true ∧ s.settle (.next t) = .next t) := by
  unfold State.settle State.alive
  cases h : t.status <;> simp [h]

end Sys2Proof.Machine
end

