-- ==== Sys2Proof/Laws/Config.lean ====
section
/-! SUPPORT. The parameters of R7 and the places that bear their values: each width and count in a type, and each
literal in a definition, is the parameter's. -/

namespace Sys2Proof

theorem byte_is_REG_W : Byte = BitVec Config.regW := rfl

theorem reg_is_NREG : Reg = Fin Config.nreg := rfl

theorem key_is_NKEYS : Key = Fin Config.nkeys := rfl

/-- A stack entry has the width of PC (R7, R25). -/
theorem stackW_is_PC_W : Config.stackW = Config.pcW := rfl

theorem maxProg_eq : Config.maxProg = Config.memSize - Config.progBase := rfl

/-- The font is `FONT_GLYPHS` glyphs of `FONT_STRIDE` bytes (R30). -/
theorem font_length : Config.font.length = Config.fontGlyphs * Config.fontStride := by decide

end Sys2Proof

namespace Sys2Proof.Machine

/-! ### The registers and interfaces of the state, each of its parameter's shape (R7, R20) -/

theorem v_shape : State.v = fun s : State => (s.v : Vector (BitVec Config.regW) Config.nreg) := rfl

theorem idx_shape : State.idx = fun s : State => (s.idx : BitVec Config.iW) := rfl

theorem pc_shape : State.pc = fun s : State => (s.pc : BitVec Config.pcW) := rfl

theorem stk_shape : State.stk = fun s : State => (s.stk : Vector (BitVec Config.stackW) Config.stackDepth) := rfl

theorem sp_shape : State.sp = fun s : State => (s.sp : Fin (Config.stackDepth + 1)) := rfl

theorem dt_shape : State.dt = fun s : State => (s.dt : BitVec Config.timerW) := rfl

theorem st_shape : State.st = fun s : State => (s.st : BitVec Config.timerW) := rfl

theorem fb_shape : State.fb = fun s : State => (s.fb : Vector (BitVec Config.displayW) Config.displayH) := rfl

theorem key_shape : State.key = fun s : State => (s.key : BitVec Config.nkeys) := rfl

/-! ### The definitions that read a parameter -/

/-- An unlisted address reads as the font byte of that index, and beyond the font as zero: `FONT_BASE` is 0 (R30,
R36). -/
theorem Memory.unlisted_eq (a : Nat) : Memory.unlisted a = Config.font.getD a 0x00 := by
  simp [Memory.unlisted]

/-- Above the font an unlisted address reads as zero (R36). -/
theorem Memory.unlisted_above {a : Nat} (h : 0x50 ≤ a) : Memory.unlisted a = 0x00 := by
  have hl : Config.font.length = 0x50 := font_length
  simp [Memory.unlisted_eq, List.getD, List.getElem?_eq_none (l := Config.font) (i := a) (by omega)]

/-- A key is held when its code is at most 15 and its level is up (R161). -/
theorem State.keyHeld_eq (s : State) (k : Byte) :
    s.keyHeld k = (decide (k.toNat ≤ 15) && s.key.getLsbD k.toNat) := by
  simp [State.keyHeld, Config.nkeys, Nat.lt_succ_iff]

end Sys2Proof.Machine
end

