-- ==== Sys2Proof/Laws/Display.lean ====
section
/-! SUPPORT. What drawing does to the grid, in closed form: every pixel under a set sprite bit is toggled once, and
the collision says whether one of them was set (R150, R152, R153). -/

namespace Sys2Proof.Machine

/-- `SetPixel` toggles the one pixel at the reduced coordinates (R150). -/
theorem setPixel_pixel (g : Grid) (c r : Nat) (r' : Fin 32) (c' : Fin 64) :
    (setPixel g c r).1[r'].getLsbD c' =
      (g[r'].getLsbD c' ^^ (decide (r'.val = r % 32) && decide (c'.val = c % 64))) := by
  by_cases hr : r'.val = r % 32
  · have hr' : r % Config.displayH = r'.val := hr.symm
    simp only [setPixel, Fin.getElem_fin, hr', Vector.getElem_set_self, BitVec.getLsbD_xor,
      BitVec.getLsbD_twoPow, Config.displayW]
    by_cases hc : c'.val = c % 64
    · simp [hr, hc, Nat.mod_lt]
    · simp [hr, hc, Ne.symm hc]
  · have hr' : r % Config.displayH ≠ r'.val := fun h => hr h.symm
    simp [setPixel, hr, Vector.getElem_set_ne _ _ hr']

/-- `SetPixel` answers whether that pixel was set (R150). -/
theorem setPixel_erased (g : Grid) (c r : Nat) (r' : Fin 32) (c' : Fin 64) (hr : r'.val = r % 32)
    (hc : c'.val = c % 64) : (setPixel g c r).2 = g[r'].getLsbD c' := by
  simp only [setPixel, Fin.getElem_fin, hr, hc, Config.displayH, Config.displayW]

/-- Some column of `cols` has a set bit and lands on column `c'` of the grid. -/
def colsHit (b : Byte) (vx : Nat) (cols : List Nat) (c' : Nat) : Bool :=
  cols.any fun col => b.getLsbD (7 - col) && decide (c' = (vx + col) % 64)

/-- The columns of a sprite row, none named twice, toggle each their own pixel (R152). -/
theorem drawCols_spec (b : Byte) (vx r : Nat) (cols : List Nat) (hnd : cols.Nodup) (hlt : ∀ k ∈ cols, k < 8)
    (g : Grid) (hit : Bool) :
    (∀ (r' : Fin 32) (c' : Fin 64), (drawCols b vx r cols (g, hit)).1[r'].getLsbD c' =
      (g[r'].getLsbD c' ^^ (decide (r'.val = r % 32) && colsHit b vx cols c'))) ∧
    ((drawCols b vx r cols (g, hit)).2 = true ↔
      hit = true ∨ ∃ (r' : Fin 32) (c' : Fin 64), r'.val = r % 32 ∧ colsHit b vx cols c' = true ∧
        g[r'].getLsbD c' = true) := by
  induction cols generalizing g hit with
  | nil => simp [drawCols, colsHit]
  | cons col cols ih =>
    obtain ⟨hcol, hnd⟩ := List.nodup_cons.1 hnd
    have hlt' : ∀ k ∈ cols, k < 8 := fun k hk => hlt k (List.mem_cons_of_mem _ hk)
    have h8 : col < 8 := hlt col List.mem_cons_self
    -- a column of the tail never lands where the head does
    have hdisj : colsHit b vx cols ((vx + col) % 64) = false := by
      simp only [colsHit, List.any_eq_false, Bool.and_eq_true, decide_eq_true_eq, not_and]
      intro k hk _ he
      have := hlt' k hk
      have : k = col := by omega
      exact hcol (this ▸ hk)
    have hcons : ∀ c', colsHit b vx (col :: cols) c' =
        ((b.getLsbD (7 - col) && decide (c' = (vx + col) % 64)) || colsHit b vx cols c') := fun _ => rfl
    by_cases hb : b.getLsbD (7 - col) = true
    · simp only [drawCols, hb, if_true]
      obtain ⟨ih1, ih2⟩ := ih hnd hlt' (setPixel g (vx + col) r).1 (hit || (setPixel g (vx + col) r).2)
      constructor
      · intro r' c'
        rw [ih1, setPixel_pixel, hcons, hb]
        by_cases hc : c'.val = (vx + col) % 64
        · simp [hc, hdisj]
        · simp [hc]
      · have hr0 : r % 32 < 32 := Nat.mod_lt _ (by decide)
        have hc0 : (vx + col) % 64 < 64 := Nat.mod_lt _ (by decide)
        rw [ih2]
        simp only [Bool.or_eq_true, hcons, hb, Bool.true_and, decide_eq_true_eq, setPixel_pixel]
        constructor
        · rintro ((h | h) | ⟨r', c', h1, h2, h3⟩)
          · exact .inl h
          · rw [setPixel_erased g _ r ⟨_, hr0⟩ ⟨_, hc0⟩ rfl rfl] at h
            exact .inr ⟨⟨_, hr0⟩, ⟨_, hc0⟩, rfl, .inl rfl, h⟩
          · refine .inr ⟨r', c', h1, .inr h2, ?_⟩
            have hc : c'.val ≠ (vx + col) % 64 := by
              intro hc
              rw [hc, hdisj] at h2
              exact Bool.false_ne_true h2
            simpa [hc] using h3
        · rintro (h | ⟨r', c', h1, h2 | h2, h3⟩)
          · exact .inl (.inl h)
          · left; right
            rw [setPixel_erased g _ r r' c' h1 h2]; exact h3
          · refine .inr ⟨r', c', h1, h2, ?_⟩
            have hc : c'.val ≠ (vx + col) % 64 := by
              intro hc
              rw [hc, hdisj] at h2
              exact Bool.false_ne_true h2
            simpa [hc] using h3
    · simp only [drawCols, if_neg hb]
      obtain ⟨ih1, ih2⟩ := ih hnd hlt' g hit
      simp only [hcons, Bool.not_eq_true _ ▸ hb, Bool.false_and, Bool.false_or]
      exact ⟨ih1, ih2⟩

/-- The eight columns of a row as an offset: pixel column `c'` is hit exactly when its offset `dc` from `vx`, counted
around the edge, is below 8 and bit `7 - dc` is set (R152). -/
theorem colsHit_range (b : Byte) (vx : Nat) (c' : Fin 64) :
    colsHit b vx (List.range Config.spriteW) c' =
      (decide ((c'.val + 64 - vx % 64) % 64 < 8) && b.getLsbD (7 - (c'.val + 64 - vx % 64) % 64)) := by
  rw [Bool.eq_iff_iff]
  simp only [colsHit, List.any_eq_true, List.mem_range, Bool.and_eq_true, decide_eq_true_eq, Config.spriteW]
  constructor
  · rintro ⟨col, h8, hb, hc⟩
    have : (c'.val + 64 - vx % 64) % 64 = col := by omega
    rw [this]; exact ⟨h8, hb⟩
  · rintro ⟨h8, hb⟩
    exact ⟨_, h8, hb, by omega⟩

/-- A sprite's rows in closed form, for at most 32 rows (R150, R152, R153). -/
theorem drawRows_spec (vx vy : Nat) (bs : List Byte) (hlen : bs.length ≤ 32) (g : Grid) (hit : Bool) :
    (∀ (r : Fin 32) (c : Fin 64), (drawRows vx vy bs (g, hit)).1[r].getLsbD c =
      (g[r].getLsbD c ^^ spriteBit (fun k => bs.getD k 0) vx vy bs.length r c)) ∧
    ((drawRows vx vy bs (g, hit)).2 = true ↔
      hit = true ∨ ∃ (r : Fin 32) (c : Fin 64),
        spriteBit (fun k => bs.getD k 0) vx vy bs.length r c = true ∧ g[r].getLsbD c = true) := by
  induction bs generalizing vy g hit with
  | nil => simp [drawRows, spriteBit]
  | cons b bs ih =>
    simp only [List.length_cons] at hlen
    have hcols := drawCols_spec b vx vy (List.range Config.spriteW) List.nodup_range
      (fun k hk => by simpa [Config.spriteW] using hk) g hit
    simp only [colsHit_range] at hcols
    obtain ⟨hc1, hc2⟩ := hcols
    obtain ⟨ih1, ih2⟩ := ih (vy + 1) (by omega) (drawRow b vx vy (g, hit)).1 (drawRow b vx vy (g, hit)).2
    -- the sprite bit of the whole is that of its first row or that of the rest, never both
    have hhead : ∀ (r : Fin 32) (c : Fin 64), r.val = vy % 32 →
        spriteBit (fun k => (b :: bs).getD k 0) vx vy (bs.length + 1) r c =
          (decide ((c.val + 64 - vx % 64) % 64 < 8) && b.getLsbD (7 - (c.val + 64 - vx % 64) % 64)) ∧
        spriteBit (fun k => bs.getD k 0) vx (vy + 1) bs.length r c = false := by
      intro r c hr
      have h0 : (r.val + 32 - vy % 32) % 32 = 0 := by omega
      have h1 : ¬((r.val + 32 - (vy + 1) % 32) % 32 < bs.length) := by omega
      simp [spriteBit, h0, h1]
    have htail : ∀ (r : Fin 32) (c : Fin 64), r.val ≠ vy % 32 →
        spriteBit (fun k => (b :: bs).getD k 0) vx vy (bs.length + 1) r c =
          spriteBit (fun k => bs.getD k 0) vx (vy + 1) bs.length r c := by
      intro r c hr
      have h0 : (r.val + 32 - vy % 32) % 32 = (r.val + 32 - (vy + 1) % 32) % 32 + 1 := by omega
      simp [spriteBit, h0]
    have hdraw : drawRows vx vy (b :: bs) (g, hit) =
        drawRows vx (vy + 1) bs ((drawRow b vx vy (g, hit)).1, (drawRow b vx vy (g, hit)).2) := rfl
    simp only [List.length_cons]
    constructor
    · intro r c
      rw [hdraw, ih1]
      by_cases hr : r.val = vy % 32
      · rw [(hhead r c hr).1, (hhead r c hr).2, drawRow, hc1]
        simp [hr]
      · rw [htail r c hr, drawRow, hc1]
        simp [hr]
    · rw [hdraw, ih2, drawRow, hc2]
      simp only [hc1]
      constructor
      · rintro ((h | ⟨r, c, h1, h2, h3⟩) | ⟨r, c, h1, h2⟩)
        · exact .inl h
        · exact .inr ⟨r, c, by rw [(hhead r c h1).1]; exact h2, h3⟩
        · by_cases hr : r.val = vy % 32
          · rw [(hhead r c hr).2] at h1; exact absurd h1 Bool.false_ne_true
          · exact .inr ⟨r, c, by rw [htail r c hr]; exact h1, by simpa [hr] using h2⟩
      · rintro (h | ⟨r, c, h1, h2⟩)
        · exact .inl (.inl h)
        · by_cases hr : r.val = vy % 32
          · exact .inl (.inr ⟨r, c, hr, by rw [← (hhead r c hr).1]; exact h1, h2⟩)
          · exact .inr ⟨r, c, by rw [← htail r c hr]; exact h1, by simpa [hr] using h2⟩

end Sys2Proof.Machine
end

