-- ==== Sys2Proof/Laws/Encoding.lean ====
section
/-! SUPPORT. The fields of a word as numbers (R73), the words the encoder builds, and the three masks of the opcode
map (R80). -/

namespace Sys2Proof

/-! ### Fields as quotients and remainders -/

theorem famOf_eq (w : Word) : famOf w = w.toNat / 4096 := by
  simp only [famOf, BitVec.extractLsb'_toNat, Nat.shiftRight_eq_div_pow]; omega

theorem xOf_val (w : Word) : (xOf w).val = w.toNat / 256 % 16 := by
  show (w.extractLsb' 8 4).toNat = _
  simp only [BitVec.extractLsb'_toNat, Nat.shiftRight_eq_div_pow]

theorem yOf_val (w : Word) : (yOf w).val = w.toNat / 16 % 16 := by
  show (w.extractLsb' 4 4).toNat = _
  simp only [BitVec.extractLsb'_toNat, Nat.shiftRight_eq_div_pow]

theorem yBitsOf_toNat (w : Word) : (yBitsOf w).toNat = w.toNat / 16 % 16 := by
  simp only [yBitsOf, BitVec.extractLsb'_toNat, Nat.shiftRight_eq_div_pow]

theorem nOf_toNat (w : Word) : (nOf w).toNat = w.toNat % 16 := by
  simp only [nOf, BitVec.extractLsb'_toNat, Nat.shiftRight_eq_div_pow]; omega

theorem kkOf_toNat (w : Word) : (kkOf w).toNat = w.toNat % 256 := by
  simp only [kkOf, BitVec.extractLsb'_toNat, Nat.shiftRight_eq_div_pow]; omega

theorem nnnOf_toNat (w : Word) : (nnnOf w).toNat = w.toNat % 4096 := by
  simp only [nnnOf, BitVec.extractLsb'_toNat, Nat.shiftRight_eq_div_pow]; omega

theorem hiByte_toNat (w : Word) : (hiByte w).toNat = w.toNat / 256 := by
  simp only [hiByte, BitVec.extractLsb'_toNat, Nat.shiftRight_eq_div_pow]; omega

theorem loByte_toNat (w : Word) : (loByte w).toNat = w.toNat % 256 := by
  simp only [loByte, BitVec.extractLsb'_toNat, Nat.shiftRight_eq_div_pow]; omega

theorem wordOfBytes_toNat (hi lo : Byte) : (wordOfBytes hi lo).toNat = hi.toNat * 256 + lo.toNat := by
  show (hi ++ lo : BitVec (8 + 8)).toNat = _
  rw [BitVec.toNat_append, ← Nat.shiftLeft_add_eq_or_of_lt lo.isLt, Nat.shiftLeft_eq]

/-- A word is its two bytes (R50). -/
@[simp] theorem wordOfBytes_bytes (w : Word) : wordOfBytes (hiByte w) (loByte w) = w := by
  apply BitVec.eq_of_toNat_eq
  rw [wordOfBytes_toNat, hiByte_toNat, loByte_toNat]; omega

/-! ### Words the encoder builds -/

theorem wordOfNibbles_toNat {f x y n : Nat} (hf : f < 16) (hx : x < 16) (hy : y < 16) (hn : n < 16) :
    (wordOfNibbles f x y n).toNat = f * 4096 + x * 256 + y * 16 + n := by
  simp only [wordOfNibbles, BitVec.toNat_ofNat]; omega

theorem wordOfLowByte_toNat {f x kk : Nat} (hf : f < 16) (hx : x < 16) (hk : kk < 256) :
    (wordOfLowByte f x kk).toNat = f * 4096 + x * 256 + kk := by
  simp only [wordOfLowByte, BitVec.toNat_ofNat]; omega

theorem wordOfAddr_toNat {f nnn : Nat} (hf : f < 16) (hn : nnn < 4096) :
    (wordOfAddr f nnn).toNat = f * 4096 + nnn := by
  simp only [wordOfAddr, BitVec.toNat_ofNat]; omega

/-! ### Fields of the words the encoder builds -/

section
variable {f x y n kk nnn : Nat}

theorem famOf_wordOfNibbles (hf : f < 16) (hx : x < 16) (hy : y < 16) (hn : n < 16) :
    famOf (wordOfNibbles f x y n) = f := by
  rw [famOf_eq, wordOfNibbles_toNat hf hx hy hn]; omega

theorem xOf_wordOfNibbles (hf : f < 16) (hx : x < 16) (hy : y < 16) (hn : n < 16) :
    xOf (wordOfNibbles f x y n) = ⟨x, hx⟩ := by
  ext; rw [xOf_val, wordOfNibbles_toNat hf hx hy hn]; dsimp only; omega

theorem yOf_wordOfNibbles (hf : f < 16) (hx : x < 16) (hy : y < 16) (hn : n < 16) :
    yOf (wordOfNibbles f x y n) = ⟨y, hy⟩ := by
  ext; rw [yOf_val, wordOfNibbles_toNat hf hx hy hn]; dsimp only; omega

theorem yBitsOf_wordOfNibbles (hf : f < 16) (hx : x < 16) (hy : y < 16) (hn : n < 16) :
    yBitsOf (wordOfNibbles f x y n) = BitVec.ofNat 4 y := by
  apply BitVec.eq_of_toNat_eq
  rw [yBitsOf_toNat, wordOfNibbles_toNat hf hx hy hn, BitVec.toNat_ofNat]; omega

theorem nOf_wordOfNibbles (hf : f < 16) (hx : x < 16) (hy : y < 16) (hn : n < 16) :
    nOf (wordOfNibbles f x y n) = BitVec.ofNat 4 n := by
  apply BitVec.eq_of_toNat_eq
  rw [nOf_toNat, wordOfNibbles_toNat hf hx hy hn, BitVec.toNat_ofNat]; omega

theorem famOf_wordOfLowByte (hf : f < 16) (hx : x < 16) (hk : kk < 256) :
    famOf (wordOfLowByte f x kk) = f := by
  rw [famOf_eq, wordOfLowByte_toNat hf hx hk]; omega

theorem xOf_wordOfLowByte (hf : f < 16) (hx : x < 16) (hk : kk < 256) :
    xOf (wordOfLowByte f x kk) = ⟨x, hx⟩ := by
  ext; rw [xOf_val, wordOfLowByte_toNat hf hx hk]; dsimp only; omega

theorem kkOf_wordOfLowByte (hf : f < 16) (hx : x < 16) (hk : kk < 256) :
    kkOf (wordOfLowByte f x kk) = BitVec.ofNat 8 kk := by
  apply BitVec.eq_of_toNat_eq
  rw [kkOf_toNat, wordOfLowByte_toNat hf hx hk, BitVec.toNat_ofNat]; omega

theorem famOf_wordOfAddr (hf : f < 16) (hn : nnn < 4096) : famOf (wordOfAddr f nnn) = f := by
  rw [famOf_eq, wordOfAddr_toNat hf hn]; omega

theorem nnnOf_wordOfAddr (hf : f < 16) (hn : nnn < 4096) :
    nnnOf (wordOfAddr f nnn) = BitVec.ofNat 12 nnn := by
  apply BitVec.eq_of_toNat_eq
  rw [nnnOf_toNat, wordOfAddr_toNat hf hn, BitVec.toNat_ofNat]; omega

end

/-! ### Masks -/

/-- A 16-bit mask acts on each byte by itself. -/
theorem and_bytes (a b c d : Byte) : wordOfBytes a b &&& wordOfBytes c d = wordOfBytes (a &&& c) (b &&& d) := by
  show ((a ++ b : BitVec (8 + 8)) &&& (c ++ d : BitVec (8 + 8))) = ((a &&& c) ++ (b &&& d) : BitVec (8 + 8))
  ext i hi
  simp only [BitVec.getElem_and, BitVec.getElem_append]
  split <;> simp

theorem byte_and_F0 (b : Byte) : (b &&& 0xF0#8).toNat = b.toNat / 16 * 16 := by revert b; decide

theorem byte_and_0F (b : Byte) : (b &&& 0x0F#8).toNat = b.toNat % 16 := by revert b; decide

/-- Mask 0xF000 keeps the family (R80). -/
theorem and_F000 (w : Word) : (w &&& 0xF000).toNat = w.toNat / 4096 * 4096 := by
  have hm : (0xF000 : Word) = wordOfBytes 0xF0#8 0x00#8 := by decide
  conv_lhs => rw [← wordOfBytes_bytes w, hm, and_bytes, wordOfBytes_toNat, byte_and_F0, hiByte_toNat]
  simp only [BitVec.and_zero, BitVec.toNat_ofNat]; omega

/-- Mask 0xF00F keeps the family and the low nibble (R80). -/
theorem and_F00F (w : Word) : (w &&& 0xF00F).toNat = w.toNat / 4096 * 4096 + w.toNat % 16 := by
  have hm : (0xF00F : Word) = wordOfBytes 0xF0#8 0x0F#8 := by decide
  conv_lhs => rw [← wordOfBytes_bytes w, hm, and_bytes, wordOfBytes_toNat, byte_and_F0, byte_and_0F, hiByte_toNat,
    loByte_toNat]
  omega

/-- Mask 0xF0FF keeps the family and the low byte (R80). -/
theorem and_F0FF (w : Word) : (w &&& 0xF0FF).toNat = w.toNat / 4096 * 4096 + w.toNat % 256 := by
  have hm : (0xF0FF : Word) = wordOfBytes 0xF0#8 (BitVec.allOnes 8) := by decide
  conv_lhs => rw [← wordOfBytes_bytes w, hm, and_bytes, wordOfBytes_toNat, byte_and_F0, BitVec.and_allOnes,
    hiByte_toNat, loByte_toNat]
  omega

/-- Mask 0xFFFF keeps the whole word (R80). -/
theorem and_FFFF (w : Word) : w &&& 0xFFFF = w := BitVec.and_allOnes

/-- A word matches a row with mask 0xF000 when its family is the row's (R80). -/
theorem matchesRow_F000 (w m : Word) : matchesRow w (0xF000, m) = decide (w.toNat / 4096 * 4096 = m.toNat) := by
  rw [Bool.eq_iff_iff]
  simp only [matchesRow, beq_iff_eq, decide_eq_true_eq, ← BitVec.toNat_inj]
  rw [and_F000]

theorem matchesRow_F00F (w m : Word) :
    matchesRow w (0xF00F, m) = decide (w.toNat / 4096 * 4096 + w.toNat % 16 = m.toNat) := by
  rw [Bool.eq_iff_iff]
  simp only [matchesRow, beq_iff_eq, decide_eq_true_eq, ← BitVec.toNat_inj]
  rw [and_F00F]

theorem matchesRow_F0FF (w m : Word) :
    matchesRow w (0xF0FF, m) = decide (w.toNat / 4096 * 4096 + w.toNat % 256 = m.toNat) := by
  rw [Bool.eq_iff_iff]
  simp only [matchesRow, beq_iff_eq, decide_eq_true_eq, ← BitVec.toNat_inj]
  rw [and_F0FF]

theorem matchesRow_FFFF (w m : Word) : matchesRow w (0xFFFF, m) = decide (w.toNat = m.toNat) := by
  rw [Bool.eq_iff_iff]
  simp only [matchesRow, beq_iff_eq, decide_eq_true_eq, ← BitVec.toNat_inj]
  rw [and_FFFF]

end Sys2Proof
end

