-- ==== Sys2Proof/Laws/Exec.lean ====
section
/-! SUPPORT. The six instructions that can raise a fatal error: each either takes it from the state before or completes
with one known state. Every other instruction is one `next` by definition. And the shape of an instruction step. -/

namespace Sys2Proof.Machine

variable (s : State)

/-- 00EE: underflow, or the pop (R104). -/
theorem execRet_cases :
    (s.sp.val = 0 ∧ execRet s = .next (s.raise .stackUnderflow)) ∨
      ∃ h : 0 < s.sp.val, execRet s =
        .next ((s.setStack s.stk ⟨s.sp.val - 1, by omega⟩).setPC (s.stk[s.sp.val - 1]'(by omega))) := by
  rcases Nat.eq_zero_or_pos s.sp.val with h | h
  · exact .inl ⟨h, by simp only [execRet, State.pop_empty h, State.commit_error]⟩
  · exact .inr ⟨h, by simp only [execRet, State.pop_eq h, State.commit_ok]⟩

/-- 2nnn: overflow, or the push (R102). -/
theorem execCall_cases (nnn : Addr) :
    (s.sp.val = 16 ∧ execCall nnn s = .next (s.raise (.stackOverflow (s.pc + 2)))) ∨
      ∃ h : s.sp.val < 16, execCall nnn s =
        .next ((s.setStack (s.stk.set s.sp.val (s.pc + 2) h) ⟨s.sp.val + 1, by omega⟩).setPC
          (zext16OfAddr nnn)) := by
  rcases Nat.lt_or_ge s.sp.val 16 with h | h
  · exact .inr ⟨h, by simp only [execCall, State.push_eq _ h, State.commit_ok]⟩
  · have h' : s.sp.val = 16 := by omega
    exact .inl ⟨h', by simp only [execCall, State.push_full _ h', State.commit_error]⟩

/-- Fx33: out of range, or the three digits stored (R144). -/
theorem execLdB_cases (x : Reg) :
    (4096 < s.idx.toNat + 3 ∧ execLdB x s = .next (s.raise (.memoryOutOfBounds (max s.idx.toNat 4096)))) ∨
      (s.idx.toNat + 3 ≤ 4096 ∧
        execLdB x s = .next (s.setMem (s.mem.writeBytes s.idx.toNat (bcdDigits (s.readV x)))).advance) := by
  rcases Nat.lt_or_ge 4096 (s.idx.toNat + 3) with h | h
  · exact .inl ⟨h, by simp only [execLdB, State.storeAtI_error (bs := bcdDigits (s.readV x)) (by simp) h,
      State.commit_error]⟩
  · exact .inr ⟨h, by simp only [execLdB, State.storeAtI_ok (bs := bcdDigits (s.readV x)) (.inr h),
      State.commit_ok]⟩

/-- Fx55: out of range, or the registers below `x` stored (R145). -/
theorem execStRegs_cases (x : Reg) :
    (1 ≤ x.val ∧ 4096 < s.idx.toNat + x.val ∧
      execStRegs x s = .next (s.raise (.memoryOutOfBounds (max s.idx.toNat 4096)))) ∨
      ((x.val = 0 ∨ s.idx.toNat + x.val ≤ 4096) ∧
        execStRegs x s = .next (s.setMem (s.mem.writeBytes s.idx.toNat (s.firstRegs x))).advance) := by
  by_cases h : x.val = 0 ∨ s.idx.toNat + x.val ≤ 4096
  · exact .inr ⟨h, by simp only [execStRegs, State.storeAtI_ok (bs := s.firstRegs x)
      (by rwa [State.firstRegs_length]), State.commit_ok]⟩
  · exact .inl ⟨by omega, by omega, by simp only [execStRegs, State.storeAtI_error (s := s) (bs := s.firstRegs x)
      (by rw [State.firstRegs_length]; omega) (by rw [State.firstRegs_length]; omega), State.commit_error]⟩

/-- Fx65: out of range, or the registers below `x` loaded (R147). -/
theorem execLdRegs_cases (x : Reg) :
    (1 ≤ x.val ∧ 4096 < s.idx.toNat + x.val ∧
      execLdRegs x s = .next (s.raise (.memoryOutOfBounds (max s.idx.toNat 4096)))) ∨
      ((x.val = 0 ∨ s.idx.toNat + x.val ≤ 4096) ∧ execLdRegs x s =
        .next (s.writeFirstRegs ((List.range x.val).map fun k => s.readByte (s.idx.toNat + k))).advance) := by
  by_cases h : x.val = 0 ∨ s.idx.toNat + x.val ≤ 4096
  · exact .inr ⟨h, by simp only [execLdRegs, State.loadAtI_ok h, State.commit_ok]⟩
  · exact .inl ⟨by omega, by omega, by
      simp only [execLdRegs, State.loadAtI_error (s := s) (len := x.val) (by omega) (by omega), State.commit_error]⟩

/-- The bytes of the sprite of Dxyn (R152). -/
def spriteBytes (n : Nibble) : List Byte := (List.range n.toNat).map fun k => s.readByte (s.idx.toNat + k)

/-- What Dxyn makes of the grid (R153). -/
def drawn (x y : Reg) (n : Nibble) : Grid × Bool :=
  drawRows (s.readV x).toNat (s.readV y).toNat (spriteBytes s n) (s.fb, false)

/-- Dxyn: out of range, or the sprite drawn (R153). -/
theorem execDrw_cases (x y : Reg) (n : Nibble) :
    (1 ≤ n.toNat ∧ 4096 < s.idx.toNat + n.toNat ∧
      execDrw x y n s = .next (s.raise (.memoryOutOfBounds (max s.idx.toNat 4096)))) ∨
      ((n.toNat = 0 ∨ s.idx.toNat + n.toNat ≤ 4096) ∧ execDrw x y n s =
        .next ((s.setFB (drawn s x y n).1).result VF (flagOf (drawn s x y n).2))) := by
  by_cases h : n.toNat = 0 ∨ s.idx.toNat + n.toNat ≤ 4096
  · exact .inr ⟨h, by simp only [execDrw, State.loadAtI_ok h, State.commit_ok]; rfl⟩
  · exact .inl ⟨by omega, by omega, by
      simp only [execDrw, State.loadAtI_error (s := s) (len := n.toNat) (by omega) (by omega), State.commit_error]⟩

/-- The grid and the collision of Dxyn in closed form (R150, R152, R153). -/
theorem drawn_spec (x y : Reg) (n : Nibble) :
    (∀ (r : Fin 32) (c : Fin 64), (drawn s x y n).1[r].getLsbD c = (s.pixel r c ^^
      spriteBit (fun k => s.readByte (s.idx.toNat + k)) (s.readV x).toNat (s.readV y).toNat n.toNat r c)) ∧
    ((drawn s x y n).2 = true ↔ ∃ (r : Fin 32) (c : Fin 64),
      spriteBit (fun k => s.readByte (s.idx.toNat + k)) (s.readV x).toNat (s.readV y).toNat n.toNat r c = true ∧
        s.pixel r c = true) := by
  have hlen : (spriteBytes s n).length = n.toNat := by simp [spriteBytes]
  have hbit : ∀ (r : Fin 32) (c : Fin 64),
      spriteBit (fun k => (spriteBytes s n).getD k 0) (s.readV x).toNat (s.readV y).toNat n.toNat r c =
        spriteBit (fun k => s.readByte (s.idx.toNat + k)) (s.readV x).toNat (s.readV y).toNat n.toNat r c := by
    intro r c
    simp only [spriteBit]
    by_cases hd : (r.val + 32 - (s.readV y).toNat % 32) % 32 < n.toNat
    · simp [spriteBytes, List.getD, hd]
    · simp [hd]
  have h := drawRows_spec (s.readV x).toNat (s.readV y).toNat (spriteBytes s n)
    (by have := n.isLt; omega) s.fb false
  rw [hlen] at h
  simp only [hbit] at h
  refine ⟨h.1, ?_⟩
  rw [drawn, h.2]
  simp only [Bool.false_eq_true, false_or]
  rfl

/-- What a word that decodes runs, or how the step dies: the whole of an instruction step (R70, R71, R84, R176). -/
theorem State.instrStep_cases :
    (∃ e, s.fetch = .error e ∧ s.instrStep = .next (s.raise e)) ∨
      (∃ w r, s.fetch = .ok w ∧ decode w = .error r ∧ s.instrStep = .next (s.raise (.unknownOpcode w))) ∨
      ∃ w i, s.fetch = .ok w ∧ decode w = .ok i ∧ s.instrStep = s.settle (exec i s.sampleKeys) := by
  unfold State.instrStep
  cases hf : s.fetch with
  | error e => exact .inl ⟨e, rfl, rfl⟩
  | ok w =>
    cases hd : decode w with
    | error r => exact .inr (.inl ⟨w, r, rfl, hd, by simp only [hd]⟩)
    | ok i => exact .inr (.inr ⟨w, i, rfl, hd, by simp only [hd]⟩)

end Sys2Proof.Machine
end

