-- ==== Sys2Proof/Laws/PerInstr.lean ====
section
/-! SUPPORT. Statements made per instruction. RowMatch: the encoded word matches the mask and the match of the
instruction's own row of the opcode map (R80). -/

namespace Sys2Proof.Laws

/-- The word of the instruction satisfies `w AND mask = match` for its row (R80). -/
def RowMatch.Statement (i : Instr) : Prop := matchesRow (encode i) (rowOf i) = true

theorem RowMatch.nibbles {f x y n : Nat} (hf : f < 16) (hx : x < 16) (hy : y < 16) (hn : n < 16) {m : Word}
    (hm : m.toNat = f * 4096 + n) : matchesRow (wordOfNibbles f x y n) (0xF00F, m) = true := by
  rw [matchesRow_F00F, decide_eq_true_eq, wordOfNibbles_toNat hf hx hy hn, hm]; omega

theorem RowMatch.family {f x y n : Nat} (hf : f < 16) (hx : x < 16) (hy : y < 16) (hn : n < 16) {m : Word}
    (hm : m.toNat = f * 4096) : matchesRow (wordOfNibbles f x y n) (0xF000, m) = true := by
  rw [matchesRow_F000, decide_eq_true_eq, wordOfNibbles_toNat hf hx hy hn, hm]; omega

theorem RowMatch.immediate {f x kk : Nat} (hf : f < 16) (hx : x < 16) (hk : kk < 256) {m : Word}
    (hm : m.toNat = f * 4096) : matchesRow (wordOfLowByte f x kk) (0xF000, m) = true := by
  rw [matchesRow_F000, decide_eq_true_eq, wordOfLowByte_toNat hf hx hk, hm]; omega

theorem RowMatch.selector {f x kk : Nat} (hf : f < 16) (hx : x < 16) (hk : kk < 256) {m : Word}
    (hm : m.toNat = f * 4096 + kk) : matchesRow (wordOfLowByte f x kk) (0xF0FF, m) = true := by
  rw [matchesRow_F0FF, decide_eq_true_eq, wordOfLowByte_toNat hf hx hk, hm]; omega

theorem RowMatch.address {f nnn : Nat} (hf : f < 16) (hn : nnn < 4096) {m : Word}
    (hm : m.toNat = f * 4096) : matchesRow (wordOfAddr f nnn) (0xF000, m) = true := by
  rw [matchesRow_F000, decide_eq_true_eq, wordOfAddr_toNat hf hn, hm]; omega

theorem RowMatch.cls : RowMatch.Statement (.cls) := by unfold RowMatch.Statement; decide

theorem RowMatch.ret : RowMatch.Statement (.ret) := by unfold RowMatch.Statement; decide

theorem RowMatch.jp (nnn : Addr) : RowMatch.Statement (.jp nnn) := RowMatch.address (by decide) nnn.isLt rfl

theorem RowMatch.call (nnn : Addr) : RowMatch.Statement (.call nnn) := RowMatch.address (by decide) nnn.isLt rfl

theorem RowMatch.seByte (x : Reg) (kk : Byte) : RowMatch.Statement (.seByte x kk) :=
  RowMatch.immediate (by decide) x.isLt kk.isLt rfl

theorem RowMatch.sneByte (x : Reg) (kk : Byte) : RowMatch.Statement (.sneByte x kk) :=
  RowMatch.immediate (by decide) x.isLt kk.isLt rfl

theorem RowMatch.seReg (x y : Reg) (ign : Nibble) : RowMatch.Statement (.seReg x y ign) :=
  RowMatch.family (by decide) x.isLt y.isLt ign.isLt rfl

theorem RowMatch.ldByte (x : Reg) (kk : Byte) : RowMatch.Statement (.ldByte x kk) :=
  RowMatch.immediate (by decide) x.isLt kk.isLt rfl

theorem RowMatch.addByte (x : Reg) (kk : Byte) : RowMatch.Statement (.addByte x kk) :=
  RowMatch.immediate (by decide) x.isLt kk.isLt rfl

theorem RowMatch.ldReg (x y : Reg) : RowMatch.Statement (.ldReg x y) :=
  RowMatch.nibbles (by decide) x.isLt y.isLt (by decide) rfl

theorem RowMatch.orReg (x y : Reg) : RowMatch.Statement (.orReg x y) :=
  RowMatch.nibbles (by decide) x.isLt y.isLt (by decide) rfl

theorem RowMatch.andReg (x y : Reg) : RowMatch.Statement (.andReg x y) :=
  RowMatch.nibbles (by decide) x.isLt y.isLt (by decide) rfl

theorem RowMatch.xorReg (x y : Reg) : RowMatch.Statement (.xorReg x y) :=
  RowMatch.nibbles (by decide) x.isLt y.isLt (by decide) rfl

theorem RowMatch.addReg (x y : Reg) : RowMatch.Statement (.addReg x y) :=
  RowMatch.nibbles (by decide) x.isLt y.isLt (by decide) rfl

theorem RowMatch.sub (x y : Reg) : RowMatch.Statement (.sub x y) :=
  RowMatch.nibbles (by decide) x.isLt y.isLt (by decide) rfl

theorem RowMatch.shr (x : Reg) (ign : Nibble) : RowMatch.Statement (.shr x ign) :=
  RowMatch.nibbles (by decide) x.isLt ign.isLt (by decide) rfl

theorem RowMatch.subn (x y : Reg) : RowMatch.Statement (.subn x y) :=
  RowMatch.nibbles (by decide) x.isLt y.isLt (by decide) rfl

theorem RowMatch.shl (x : Reg) (ign : Nibble) : RowMatch.Statement (.shl x ign) :=
  RowMatch.nibbles (by decide) x.isLt ign.isLt (by decide) rfl

theorem RowMatch.sneReg (x y : Reg) (ign : Nibble) : RowMatch.Statement (.sneReg x y ign) :=
  RowMatch.family (by decide) x.isLt y.isLt ign.isLt rfl

theorem RowMatch.ldI (nnn : Addr) : RowMatch.Statement (.ldI nnn) := RowMatch.address (by decide) nnn.isLt rfl

theorem RowMatch.jpV0 (nnn : Addr) : RowMatch.Statement (.jpV0 nnn) := RowMatch.address (by decide) nnn.isLt rfl

theorem RowMatch.rnd (x : Reg) (kk : Byte) : RowMatch.Statement (.rnd x kk) :=
  RowMatch.immediate (by decide) x.isLt kk.isLt rfl

theorem RowMatch.drw (x y : Reg) (n : Nibble) : RowMatch.Statement (.drw x y n) :=
  RowMatch.family (by decide) x.isLt y.isLt n.isLt rfl

theorem RowMatch.skp (x : Reg) : RowMatch.Statement (.skp x) := RowMatch.selector (by decide) x.isLt (by decide) rfl

theorem RowMatch.sknp (x : Reg) : RowMatch.Statement (.sknp x) := RowMatch.selector (by decide) x.isLt (by decide) rfl

theorem RowMatch.ldVxDT (x : Reg) : RowMatch.Statement (.ldVxDT x) :=
  RowMatch.selector (by decide) x.isLt (by decide) rfl

theorem RowMatch.ldVxK (x : Reg) : RowMatch.Statement (.ldVxK x) :=
  RowMatch.selector (by decide) x.isLt (by decide) rfl

theorem RowMatch.ldDTVx (x : Reg) : RowMatch.Statement (.ldDTVx x) :=
  RowMatch.selector (by decide) x.isLt (by decide) rfl

theorem RowMatch.ldSTVx (x : Reg) : RowMatch.Statement (.ldSTVx x) :=
  RowMatch.selector (by decide) x.isLt (by decide) rfl

theorem RowMatch.addI (x : Reg) : RowMatch.Statement (.addI x) := RowMatch.selector (by decide) x.isLt (by decide) rfl

theorem RowMatch.ldF (x : Reg) : RowMatch.Statement (.ldF x) := RowMatch.selector (by decide) x.isLt (by decide) rfl

theorem RowMatch.ldB (x : Reg) : RowMatch.Statement (.ldB x) := RowMatch.selector (by decide) x.isLt (by decide) rfl

theorem RowMatch.stRegs (x : Reg) : RowMatch.Statement (.stRegs x) :=
  RowMatch.selector (by decide) x.isLt (by decide) rfl

theorem RowMatch.ldRegs (x : Reg) : RowMatch.Statement (.ldRegs x) :=
  RowMatch.selector (by decide) x.isLt (by decide) rfl

end Sys2Proof.Laws
end

