-- ==== Sys2Proof/Laws/Step.lean ====
section
/-! SUPPORT. What a step can do: the arms of `step`, the close of a slot, the end of a Frame, and that no instruction
depends on the position inside the Frame. -/

namespace Sys2Proof.Machine

/-! ### The arms of the step -/

/-- When Running, a step is an instruction step and the close of its slot (R70, R188). -/
theorem step_running {s t : State} (hs : s.status = .running) (h : s.instrStep = .next t) :
    step s = .next t.closeSlot := by
  simp [step, hs, State.slotStep, h]

/-- In the key wait, a step is one event of the wait (R164, R191). -/
theorem step_waiting {s : State} {x : Reg} (h : s.status = .awaitingKey x) : step s = .next s.waitStep := by
  simp [step, h]

/-- When Dead, no step is enabled (R177). -/
theorem step_dead {s : State} {e : FatalError} (h : s.status = .dead e) : step s = .fault (.dead e) := by
  simp [step, h]

/-- A run of `k + 1` steps is a step and then a run of `k` steps. -/
theorem run_succ {s t : State} (k : Nat) (h : step s = .next t) : core.run (k + 1) s = core.run k t := by
  have h' : core.step s = .next t := h
  simp only [Host.Core.run, h']

/-! ### Timers and the end of a Frame -/

/-- One tick takes a timer down by one, floored at zero (R186). -/
@[simp] theorem countDown_toNat (b : Byte) : (countDown b).toNat = b.toNat - 1 := by
  revert b; decide

/-- The end of a Frame of a Running core: the tick, then the outputs (R188). -/
theorem State.endFrame_running {t : State} (h : t.status = .running) :
    t.endFrame = ((t.setDT (countDown t.dt)).setST (countDown t.st)).setOutputs
      (decide ((countDown t.st).toNat > 0)) := by
  simp [State.endFrame, State.endFrameWith, State.timerTick, h]

/-- The end of a Frame in the key wait: the outputs without the tick (R188). -/
theorem State.endFrame_waiting {t : State} {x : Reg} (h : t.status = .awaitingKey x) :
    t.endFrame = t.setOutputs (decide (t.st.toNat > 0)) := by
  simp [State.endFrame, State.endFrameWith, Config.tickWhilePaused, h]

/-! ### The close of a slot -/

theorem State.closeSlot_dead {t : State} {e : FatalError} (h : t.status = .dead e) : t.closeSlot = t := by
  simp [State.closeSlot, h]

theorem State.closeSlot_waiting {t : State} {x : Reg} (h : t.status = .awaitingKey x) :
    t.closeSlot = t.endFrame.setSlot 0 := by
  simp [State.closeSlot, h]

theorem State.closeSlot_next {t : State} (h : t.status = .running) (hk : t.slot + 1 < 10) :
    t.closeSlot = t.setSlot (t.slot + 1) := by
  simp only [State.closeSlot, h]
  exact if_pos hk

theorem State.closeSlot_last {t : State} (h : t.status = .running) (hk : 10 ≤ t.slot + 1) :
    t.closeSlot = t.endFrame.setSlot 0 := by
  simp only [State.closeSlot, h]
  exact if_neg (Nat.not_lt.2 hk)

/-! ### The slots of a Frame -/

/-- A core in the key wait leaves the remaining slots empty (R188). -/
theorem State.frameSlots_waiting (n : Nat) {s : State} {x : Reg} (h : s.status = .awaitingKey x) :
    State.frameSlots n s = .next s := by
  induction n <;> simp_all [State.frameSlots]

/-- A Dead core leaves them empty too (R188). -/
theorem State.frameSlots_dead (n : Nat) {s : State} {e : FatalError} (h : s.status = .dead e) :
    State.frameSlots n s = .next s := by
  cases n <;> simp [State.frameSlots, h]

/-! ### No instruction depends on the position inside the Frame -/

/-- An instruction answers the same at another position, which it leaves alone (log entry 1). -/
theorem exec_setSlot (i : Instr) (s : State) (k : Nat) :
    ∃ t, exec i s = .next t ∧ exec i (s.setSlot k) = .next (t.setSlot k) := by
  cases i
  case ret =>
    rcases execRet_cases s with ⟨h, h'⟩ | ⟨h, h'⟩ <;>
      rcases execRet_cases (s.setSlot k) with ⟨g, g'⟩ | ⟨g, g'⟩
    · exact ⟨_, h', g'⟩
    · simp [h] at g
    · simp at g; omega
    · exact ⟨_, h', g'⟩
  case call n =>
    rcases execCall_cases s n with ⟨h, h'⟩ | ⟨h, h'⟩ <;>
      rcases execCall_cases (s.setSlot k) n with ⟨g, g'⟩ | ⟨g, g'⟩
    · exact ⟨_, h', g'⟩
    · simp [h] at g
    · simp at g; omega
    · exact ⟨_, h', g'⟩
  case ldB x =>
    rcases execLdB_cases s x with ⟨h, h'⟩ | ⟨h, h'⟩ <;>
      rcases execLdB_cases (s.setSlot k) x with ⟨g, g'⟩ | ⟨g, g'⟩
    · exact ⟨_, h', g'⟩
    · simp at g; omega
    · simp at g; omega
    · exact ⟨_, h', g'⟩
  case stRegs x =>
    rcases execStRegs_cases s x with ⟨h, h0, h'⟩ | ⟨h, h'⟩ <;>
      rcases execStRegs_cases (s.setSlot k) x with ⟨g, g0, g'⟩ | ⟨g, g'⟩
    · exact ⟨_, h', g'⟩
    · simp at g; omega
    · simp at g0; omega
    · exact ⟨_, h', g'⟩
  case ldRegs x =>
    rcases execLdRegs_cases s x with ⟨h, h0, h'⟩ | ⟨h, h'⟩ <;>
      rcases execLdRegs_cases (s.setSlot k) x with ⟨g, g0, g'⟩ | ⟨g, g'⟩
    · exact ⟨_, h', g'⟩
    · simp at g; omega
    · simp at g0; omega
    · refine ⟨_, h', g'.trans ?_⟩
      congr 1
  case drw x y n =>
    rcases execDrw_cases s x y n with ⟨h, h0, h'⟩ | ⟨h, h'⟩ <;>
      rcases execDrw_cases (s.setSlot k) x y n with ⟨g, g0, g'⟩ | ⟨g, g'⟩
    · exact ⟨_, h', g'⟩
    · simp at g; omega
    · simp at g0; omega
    · exact ⟨_, h', g'⟩
  all_goals exact ⟨_, rfl, rfl⟩

/-- An instruction leaves the position inside the Frame alone (log entry 1). -/
theorem exec_slot {i : Instr} {s t : State} (h : exec i s = .next t) : t.slot = s.slot := by
  obtain ⟨t', h1, h2⟩ := exec_setSlot i s s.slot
  have h0 : s.setSlot s.slot = s := rfl
  rw [h0, h] at h2
  rw [h] at h1
  cases h1
  rw [Host.Outcome.next.inj h2]; rfl

/-- An instruction step answers a next state, the same at another position, which it leaves alone. -/
theorem State.instrStep_setSlot (s : State) (k : Nat) :
    ∃ t, s.instrStep = .next t ∧ (s.setSlot k).instrStep = .next (t.setSlot k) ∧ t.slot = s.slot := by
  have hf : (s.setSlot k).fetch = s.fetch := State.fetch_congr rfl rfl
  rcases State.instrStep_cases s with ⟨e, a, h'⟩ | ⟨w, r, a, b, h'⟩ | ⟨w, i, a, b, h'⟩
  · exact ⟨_, h', by simp [State.instrStep, hf, a]; rfl, rfl⟩
  · exact ⟨_, h', by simp [State.instrStep, hf, a, b]; rfl, rfl⟩
  · obtain ⟨t, h1, h2⟩ := exec_setSlot i s.sampleKeys k
    have h3 : (s.setSlot k).instrStep = (s.setSlot k).settle (exec i (s.setSlot k).sampleKeys) := by
      simp [State.instrStep, hf, a, b]
    have h4 : (s.setSlot k).sampleKeys = s.sampleKeys.setSlot k := rfl
    have h8 : t.slot = s.slot := exec_slot (s := s.sampleKeys) h1
    rw [h1] at h'
    rw [h4, h2] at h3
    cases ht : t.status with
    | dead e => exact ⟨s.raise e, by rw [h']; simp [State.settle, ht], by rw [h3]; simp [State.settle, ht]; rfl, rfl⟩
    | running => exact ⟨t, by rw [h']; simp [State.settle, ht], by rw [h3]; simp [State.settle, ht], h8⟩
    | awaitingKey x => exact ⟨t, by rw [h']; simp [State.settle, ht], by rw [h3]; simp [State.settle, ht], h8⟩

end Sys2Proof.Machine
end

