-- ==== Sys2Proof/Tests/Slice0.lean ====
section
/-! SUPPORT. Tests. The expected results are those of spec/95_test_vectors.md, whose numbers (S1, T1, ...) each test
names; the words of the decoder's tests are written out bit by bit from spec/30_encoding.md. Then one witness for each
statement that has hypotheses. -/

namespace Sys2Proof.Tests

open Sys2Proof.Machine

/-! ### Helpers -/

/-- The state after reset with the registers listed set. -/
def regs (l : List (Reg × Byte)) : State := l.foldl (fun s p => s.writeV p.1 p.2) State.reset

/-- The state with bytes placed in memory. -/
def bytesAt (s : State) (a : Nat) (bs : List Byte) : State := s.setMem (s.mem.writeBytes a bs)

/-- The state with one pixel toggled. -/
def dot (s : State) (c r : Nat) : State := s.setFB (setPixel s.fb c r).1

/-- The state with `n` stack entries in use, all of them `w`. -/
def stack (n : Fin 17) (w : Word) (s : State) : State := s.setStack (Vector.replicate 16 w) n

/-- The answer is a next state of which `p` holds. -/
def ends (r : Result) (p : State → Bool) : Bool :=
  match r with
  | .next t => p t
  | .fault _ => false
  | .refused _ => false

/-- One step on the word `w` placed at PC ends in a state of which `p` holds. -/
def word (w : Nat) (s : State) (p : State → Bool) : Bool := ends (step (s.withFetchWord 16 w)) p

/-- The error that the status records. -/
def errorOf (s : State) : Option FatalError :=
  match s.status with
  | .dead e => some e
  | .running => none
  | .awaitingKey _ => none

/-- The bytes of memory from `a` on. -/
def window (s : State) (a n : Nat) : List Byte := (List.range n).map fun k => s.readByte (a + k)

/-! ### WellFormed: an ill-formed term for each check -/

theorem test_wf_refuses_se : (Instr.seReg 1 2 7).wellFormed = false := by decide
theorem test_wf_refuses_sne : (Instr.sneReg 1 2 15).wellFormed = false := by decide
theorem test_wf_refuses_shr : (Instr.shr 3 4).wellFormed = false := by decide
theorem test_wf_refuses_shl : (Instr.shl 3 4).wellFormed = false := by decide
theorem test_wf_accepts :
    (Instr.seReg 1 2 0).wellFormed = true ∧ (Instr.shr 3 0).wellFormed = true ∧ (Instr.drw 15 15 15).wellFormed = true := by
  decide

/-! ### Decode: each constructor from a word written bit by bit (fam, then x, y, n or kk or nnn) -/

-- 00E0, 00EE
theorem test_decode_family0 :
    decode 0b0000000011100000#16 = .ok .cls ∧ decode 0b0000000011101110#16 = .ok .ret := by decide
-- fam 1, 2, A, B with nnn = 0011 0000 0100
theorem test_decode_nnn :
    decode 0b0001001100000100#16 = .ok (.jp 0x304) ∧ decode 0b0010001100000100#16 = .ok (.call 0x304) ∧
    decode 0b1010001100000100#16 = .ok (.ldI 0x304) ∧ decode 0b1011001100000100#16 = .ok (.jpV0 0x304) := by decide
-- fam 3, 4, 6, 7, C with x = 1010, kk = 0000 0101
theorem test_decode_xkk :
    decode 0b0011101000000101#16 = .ok (.seByte 10 5) ∧ decode 0b0100101000000101#16 = .ok (.sneByte 10 5) ∧
    decode 0b0110101000000101#16 = .ok (.ldByte 10 5) ∧ decode 0b0111101000000101#16 = .ok (.addByte 10 5) ∧
    decode 0b1100101000000101#16 = .ok (.rnd 10 5) := by decide
-- fam 5, 9, D with x = 0001, y = 0010, n = 0111
theorem test_decode_xyn :
    decode 0b0101000100100111#16 = .ok (.seReg 1 2 7) ∧ decode 0b1001000100100111#16 = .ok (.sneReg 1 2 7) ∧
    decode 0b1101000100100111#16 = .ok (.drw 1 2 7) := by decide
-- fam 8 with x = 0001, y = 1110, the selector in n
theorem test_decode_family8 :
    decode 0b1000000111100000#16 = .ok (.ldReg 1 14) ∧ decode 0b1000000111100001#16 = .ok (.orReg 1 14) ∧
    decode 0b1000000111100010#16 = .ok (.andReg 1 14) ∧ decode 0b1000000111100011#16 = .ok (.xorReg 1 14) ∧
    decode 0b1000000111100100#16 = .ok (.addReg 1 14) ∧ decode 0b1000000111100101#16 = .ok (.sub 1 14) ∧
    decode 0b1000000111100110#16 = .ok (.shr 1 14) ∧ decode 0b1000000111100111#16 = .ok (.subn 1 14) ∧
    decode 0b1000000111101110#16 = .ok (.shl 1 14) := by decide
-- fam E with x = 0010, the selectors 1001 1110 and 1010 0001
theorem test_decode_familyE :
    decode 0b1110001010011110#16 = .ok (.skp 2) ∧ decode 0b1110001010100001#16 = .ok (.sknp 2) := by decide
-- fam F with x = 0011, the selector in kk: 07, 0A, 15, 18, 1E, 29, 33, 55, 65
theorem test_decode_familyF :
    decode 0b1111001100000111#16 = .ok (.ldVxDT 3) ∧ decode 0b1111001100001010#16 = .ok (.ldVxK 3) ∧
    decode 0b1111001100010101#16 = .ok (.ldDTVx 3) ∧ decode 0b1111001100011000#16 = .ok (.ldSTVx 3) ∧
    decode 0b1111001100011110#16 = .ok (.addI 3) ∧ decode 0b1111001100101001#16 = .ok (.ldF 3) ∧
    decode 0b1111001100110011#16 = .ok (.ldB 3) ∧ decode 0b1111001101010101#16 = .ok (.stRegs 3) ∧
    decode 0b1111001101100101#16 = .ok (.ldRegs 3) := by decide
-- T140 to T148
theorem test_decode_unknown :
    [0x0000, 0x00E1, 0x01E0, 0x0123, 0x8128, 0x812F, 0xE19F, 0xF100, 0xF156].all
      (fun w => decide (decode w = .error (.unknownOpcode w))) = true := by decide
-- R50: the byte at the lower address is the high one; R72: two bytes make an instruction
theorem test_decodeBytes :
    decodeBytes [0x12, 0x34, 0x56] = .ok (.jp 0x234, [0x56]) ∧ decodeBytes [0x12] = .error (.truncated 1) := by decide
theorem test_decodeTableWord :
    decodeTableWord 16 0x6A05 = some (.ldByte 10 5) ∧ decodeTableWord 16 0x8128 = none := by decide

/-! ### Control flow -/

theorem test_T50 : word 0x1200 State.reset (fun t => t.pc == 0x200) = true := by decide
theorem test_T51 : ends (step ((State.reset).setPC 0x0FFF))
    (fun t => t.pc == 0x0FFF && errorOf t == some (.memoryOutOfBounds 0x1000)) = true := by decide
theorem test_T52 : word 0x2300 ((State.reset).setPC 0x204)
    (fun t => t.stk[0] == 0x0206 && t.sp == 1 && t.pc == 0x300) = true := by decide
theorem test_T53 : word 0x2300 (stack 16 0x0202 State.reset)
    (fun t => errorOf t == some (.stackOverflow 0x0202) && t.sp == 16 && t.pc == 0x200) = true := by decide
theorem test_T54 : word 0x00EE (stack 1 0x0206 State.reset) (fun t => t.pc == 0x206 && t.sp == 0) = true := by decide
theorem test_T55 : word 0x00EE State.reset (fun t => errorOf t == some .stackUnderflow && t.pc == 0x200) = true := by
  decide
theorem test_T56 : word 0xB300 (regs [(0, 0x04)]) (fun t => t.pc == 0x304) = true := by decide
theorem test_T57 : word 0xBFFF (regs [(0, 0xFF)]) (fun t => t.pc == 0x10FE) = true := by decide
theorem test_T58 : word 0x3A05 (regs [(10, 0x05)]) (fun t => t.pc == 0x204) = true := by decide
theorem test_T59 : word 0x3A05 (regs [(10, 0x06)]) (fun t => t.pc == 0x202) = true := by decide
theorem test_T60 : word 0x4A05 (regs [(10, 0x05)]) (fun t => t.pc == 0x202) = true := by decide
theorem test_T61 : word 0x4A05 (regs [(10, 0x06)]) (fun t => t.pc == 0x204) = true := by decide
theorem test_T63 : word 0x5120 (regs [(1, 0x07), (2, 0x08)]) (fun t => t.pc == 0x202) = true := by decide
theorem test_T64 : word 0x5127 (regs [(1, 0x07), (2, 0x07)]) (fun t => t.pc == 0x204) = true := by decide
theorem test_T67 : word 0x9120 (regs [(1, 0x07), (2, 0x07)]) (fun t => t.pc == 0x202) = true := by decide
theorem test_T68 : word 0x912F (regs [(1, 0x07), (2, 0x08)]) (fun t => t.pc == 0x204) = true := by decide

/-! ### Registers and ALU -/

theorem test_T1 : word 0x6FAB State.reset (fun t => t.readV 15 == 0xAB && t.pc == 0x202) = true := by decide
theorem test_T2 : word 0x7102 (regs [(1, 0xFF)]) (fun t => t.readV 1 == 0x01 && t.readV VF == 0) = true := by decide
theorem test_T3 : word 0x7FFF (regs [(VF, 0x01)]) (fun t => t.readV VF == 0) = true := by decide
theorem test_T4 : word 0x8120 (regs [(2, 0x2C)]) (fun t => t.readV 1 == 0x2C) = true := by decide
theorem test_T5 : word 0x8121 (regs [(1, 0x0F), (2, 0xF0), (VF, 0x55)])
    (fun t => t.readV 1 == 0xFF && t.readV VF == 0x55) = true := by decide
theorem test_T6 : word 0x8122 (regs [(1, 0x3C), (2, 0x0F)]) (fun t => t.readV 1 == 0x0C) = true := by decide
theorem test_T7 : word 0x8123 (regs [(1, 0xFF), (2, 0x0F)]) (fun t => t.readV 1 == 0xF0) = true := by decide
theorem test_T13 : word 0x8F14 (regs [(VF, 0xF0), (1, 0x20)]) (fun t => t.readV VF == 0x10) = true := by decide
theorem test_T14 : word 0x80F4 (regs [(0, 0xFF), (VF, 0x01)])
    (fun t => t.readV 0 == 0x00 && t.readV VF == 0x01) = true := by decide
theorem test_T22 : word 0x8215 (regs [(2, 0x40), (1, 0x40)])
    (fun t => t.readV 2 == 0x00 && t.readV VF == 0x00) = true := by decide
theorem test_T25 : word 0x81F5 (regs [(1, 0x05), (VF, 0x07)])
    (fun t => t.readV 1 == 0xFE && t.readV VF == 0x00) = true := by decide
theorem test_T27 : word 0x8127 (regs [(1, 0x0A), (2, 0x0F)])
    (fun t => t.readV 1 == 0x05 && t.readV VF == 0x01) = true := by decide
theorem test_T28 : word 0x8127 (regs [(1, 0x0F), (2, 0x0A)])
    (fun t => t.readV 1 == 0xFB && t.readV VF == 0x00) = true := by decide
theorem test_T33 : word 0x8346 (regs [(3, 0x05), (4, 0xFF)])
    (fun t => t.readV 3 == 0x02 && t.readV VF == 0x01 && t.readV 4 == 0xFF) = true := by decide
theorem test_T34 : word 0x8F06 (regs [(VF, 0x07)]) (fun t => t.readV VF == 0x03) = true := by decide
theorem test_T37 : word 0x830E (regs [(3, 0x80)]) (fun t => t.readV 3 == 0x00 && t.readV VF == 0x01) = true := by
  decide
theorem test_T38 : word 0x8F0E (regs [(VF, 0x81)]) (fun t => t.readV VF == 0x02) = true := by decide
-- T40: the random byte is masked away, whatever it is
theorem test_T40 : ends (exec (.rnd 3 0) (regs [(3, 0x77)])) (fun t => t.readV 3 == 0x00) = true := by
  simp [ends, exec, execRnd, State.rand8, State.result, State.advance, State.setPC, State.writeV, State.readV]

/-! ### Index and memory -/

theorem test_T70 : word 0xAFFF State.reset (fun t => t.idx == 0x0FFF) = true := by decide
theorem test_T72 : word 0xF11E ((regs [(1, 0xFF)]).setI 0x0FFF)
    (fun t => t.idx == 0x10FE && t.readV VF == 0x00) = true := by decide
theorem test_T73 : word 0xF11E ((regs [(1, 0x02)]).setI 0xFFFF) (fun t => t.idx == 0x0001) = true := by decide
theorem test_T74 : word 0xF029 (regs [(0, 0x0A)]) (fun t => t.idx == 0x0032) = true := by decide
theorem test_T77 : word 0xF029 (regs [(0, 0xFF)]) (fun t => t.idx == 0x04FB) = true := by decide
theorem test_T83 : word 0xF033 ((regs [(0, 0x9C)]).setI 0x0FFD) (fun t => window t 0xFFD 3 == [1, 5, 6]) = true := by
  decide
theorem test_T84 : word 0xF033 ((regs [(0, 0x9C)]).setI 0x0FFE)
    (fun t => errorOf t == some (.memoryOutOfBounds 0x1000) && window t 0xFFE 2 == [0, 0]) = true := by decide
theorem test_T86a : word 0xF355 ((regs [(0, 1), (1, 5), (2, 6), (3, 0x77)]).setI 0x305)
    (fun t => window t 0x305 4 == [1, 5, 6, 0] && t.idx == 0x305) = true := by decide
theorem test_T89 : word 0xF355 ((regs [(0, 1), (1, 2), (2, 3)]).setI 0x0FFE)
    (fun t => errorOf t == some (.memoryOutOfBounds 0x1000) && window t 0xFFE 2 == [0, 0]) = true := by decide
theorem test_T91 : word 0xF365 ((bytesAt (regs [(3, 0x77)]) 0x300 [1, 5, 6, 9]).setI 0x300)
    (fun t => ([0, 1, 2, 3] : List Reg).map t.readV == [1, 5, 6, 0x77] && t.idx == 0x300) = true := by decide
theorem test_T93 : word 0xF165 ((State.reset).setI 0x1000)
    (fun t => errorOf t == some (.memoryOutOfBounds 0x1000) && t.pc == 0x200) = true := by decide

/-! ### Display -/

theorem test_T100 : word 0x00E0 (dot (regs [(VF, 0x01)]) 5 6)
    (fun t => t.fb == Vector.replicate 32 0 && t.readV VF == 0x01) = true := by decide
theorem test_T104 : word 0xD121 ((bytesAt (regs [(1, 0x7F), (2, 0x3F)]) 0x300 [0x80]).setI 0x300)
    (fun t => t.fb == (dot State.reset 63 31).fb && t.readV VF == 0x00) = true := by decide
theorem test_T86 : word 0xD121 ((bytesAt (dot State.reset 0 0) 0x300 [0xC0]).setI 0x300)
    (fun t => t.fb == (dot State.reset 1 0).fb && t.readV VF == 0x01) = true := by decide

/-! ### Keypad and timers -/

theorem test_T120 : ends (exec (.skp 2) ((regs [(2, 0x07)]).setKey 0x0080)) (fun t => t.pc == 0x204) = true := by
  decide
theorem test_T122 : ends (exec (.skp 2) ((regs [(2, 0x17)]).setKey 0x0080)) (fun t => t.pc == 0x202) = true := by
  decide
theorem test_T124 : ends (exec (.sknp 2) ((regs [(2, 0x07)]).setKey 0x0080)) (fun t => t.pc == 0x202) = true := by
  decide
theorem test_T125 : ends (exec (.sknp 2) ((regs [(2, 0x20)]).setKey 0xFFFF)) (fun t => t.pc == 0x204) = true := by
  decide
theorem test_T126 : word 0xF10A State.reset
    (fun t => t.status == .awaitingKey 1 && t.pc == 0x202 && t.readV 1 == 0x00 && t.paused) = true := by decide
theorem test_T127 : (((State.reset).setStatus (.awaitingKey 1)).keyPress 15).readV 1 = 0x0F ∧
    (((State.reset).setStatus (.awaitingKey 1)).keyPress 15).status = .running := by decide
theorem test_T128 : (State.reset).keyPress 3 = State.reset := by decide
theorem test_T130 : word 0xF207 ((State.reset).setDT 3) (fun t => t.readV 2 == 3 && t.dt == 3) = true := by decide
theorem test_T131 : word 0xF015 (regs [(0, 0x03)]) (fun t => t.dt == 3 && t.st == 0) = true := by decide
theorem test_T132 : word 0xF018 (regs [(0, 0x1E)]) (fun t => t.st == 0x1E && t.dt == 0) = true := by decide
theorem test_T135 : (((State.reset).setDT 255).setST 1).timerTick.dt = 254 ∧
    (((State.reset).setDT 255).setST 1).timerTick.st = 0 ∧ (((State.reset).setDT 0).setST 1).timerTick.dt = 0 := by
  decide

/-! ### Fetch, unknown words, Load, the end of a Frame -/

theorem test_T140 : ends (step State.reset)
    (fun t => errorOf t == some (.unknownOpcode 0x0000) && t.pc == 0x200 && t.draws == 0) = true := by decide
theorem test_T150 : word 0x6A05 ((State.reset).setPC 0x201) (fun t => t.readV 10 == 0x05 && t.pc == 0x203) = true := by
  decide
theorem test_T151 : word 0x1200 ((State.reset).setPC 0xFFE) (fun t => t.pc == 0x200) = true := by decide
theorem test_T153 : ends (step ((State.reset).setPC 0x1000))
    (fun t => errorOf t == some (.memoryOutOfBounds 0x1000) && t.pc == 0x1000) = true := by decide
theorem test_T163 : window (State.boot [0x6A, 0x05]) 0x200 3 = [0x6A, 0x05, 0x00] ∧
    (State.boot [0x6A, 0x05]).pc = 0x200 ∧ window (State.boot [0x6A, 0x05]) 0 5 = [0xF0, 0x90, 0x90, 0x90, 0xF0] := by
  decide
-- S7, its first cycle; a program that was loaded runs at the first step after reset
theorem test_S7 : ends (step (State.boot [0x6A, 0x05, 0x6B, 0x03])) (fun t => t.readV 10 == 5 && t.pc == 0x202) = true := by
  decide
-- T171, its last slot: the tick and the tone
theorem test_T171 : word 0x1200 ((((State.reset).setDT 5).setST 2).setSlot 9)
    (fun t => t.dt == 4 && t.st == 1 && t.toneOn && t.renders == 1 && t.slot == 0) = true := by decide
-- T175: the slots after Fx0A are empty, no tick, the outputs are produced
theorem test_T175 : ends (step ((State.boot [0xF1, 0x0A, 0x12, 0x02]).setDT 5))
    (fun t => t.dt == 5 && t.renders == 1 && !t.toneOn && t.slot == 0 && t.status == .awaitingKey 1) = true := by decide
-- a write of the reset contents leaves nothing listed, a write out of order keeps the order
theorem test_memory_canonical : Memory.write (Memory.write [] 0x300 7) 0x300 0 = [] ∧
    Memory.write (Memory.write [] 0x300 7) 0x00 1 = [(0x00, 1), (0x300, 7)] ∧
    (Memory.write [] 0x00 0xF0).wf = true ∧ Memory.wf [(0x300, 0)] = false := by decide

/-! ### Witnesses: for each statement with hypotheses a state and operands that meet them, at the boundary of each
clause. -/

theorem witness_JumpSetsPc : (0xFFE#12).toNat < 4095 ∧ (0xFFF#12).toNat = 4095 := by decide
theorem witness_CallPushesReturnAddress :
    (stack 15 0 State.reset).sp.val < 16 ∧ (stack 16 0 State.reset).sp.val = 16 := by decide
theorem witness_ReturnPopsStack :
    (stack 1 0 State.reset).sp.val = (0 : Fin 16).val + 1 ∧ (stack 16 0 State.reset).sp.val = (15 : Fin 16).val + 1 ∧
    (State.reset).sp.val = 0 := by decide
-- the entry above the one the call pushed is a dead one that a nested call left behind
theorem witness_CallThenReturnResumes : (stack 14 0 State.reset).sp.val < 16 ∧
    ∃ t u : State, exec (.call 0x300) (stack 14 0 State.reset) = .next t ∧ u.sp = t.sp ∧
      (∀ j : Fin 16, j.val < t.sp.val → u.stk[j] = t.stk[j]) ∧ u.stk ≠ t.stk :=
  ⟨by decide, _, State.setStack State.reset (((Vector.replicate 16 0).set 14 0x202).set 15 0x306) 15, rfl, rfl, by decide,
    by decide⟩
theorem witness_JumpV0AddsOffset : 4094 < (0xF00#12).toNat + ((regs [(0, 0xFF)]).readV 0).toNat := by decide
theorem witness_flag_destination : (14 : Reg) ≠ VF := by decide
theorem witness_RandomByteIsMasked : (0 : Byte) = 0 ∧ (1 : Reg) ≠ 0 := by decide
theorem witness_OnlyFlagWritersTouchVF : (∃ t, exec (.ldRegs 15) State.reset = .next t) ∧
    (Instr.ldRegs 15).writesFlag = false ∧ (Instr.ldRegs 15).dest ≠ some VF := ⟨⟨_, rfl⟩, by decide⟩
theorem witness_FlagIsZeroOrOne : (State.reset).alive = true ∧
    (∃ t, exec (.addReg 0 15) (regs [(VF, 7)]) = .next t ∧ t.alive = true) ∧
    (Instr.addReg 0 15).writesFlag = true ∧ (Instr.addReg 0 15).dest ≠ some VF := ⟨rfl, ⟨_, rfl, rfl⟩, by decide⟩
theorem witness_RegistersOutsideDestinationStay : (∃ t, exec (.ldRegs 3) State.reset = .next t) ∧
    (Instr.ldRegs 3).dest ≠ some 3 ∧ (3 : Reg) ≠ VF ∧ ∀ x, Instr.ldRegs 3 = .ldRegs x → x.val ≤ (3 : Reg).val :=
  ⟨⟨_, rfl⟩, by decide, by decide, by intro x h; cases h; decide⟩
theorem witness_StoreDigits : ((State.reset).setI 4093).idx.toNat ≤ 4093 := by decide
theorem witness_store_and_load_range :
    ((0 : Reg).val = 0 ∨ ((State.reset).setI 0xFFFF).idx.toNat + (0 : Reg).val - 1 ≤ 4095) ∧
    ((2 : Reg).val = 0 ∨ ((State.reset).setI 0xFFE).idx.toNat + (2 : Reg).val - 1 ≤ 4095) := by decide
theorem witness_RangeErrorTouchesNothing : ((State.reset).setI 4094).idx.toNat + 2 > 4095 ∧
    (1 ≤ (3 : Reg).val ∧ ((State.reset).setI 0xFFE).idx.toNat + (3 : Reg).val - 1 > 4095) ∧
    (1 ≤ (1#4).toNat ∧ ((State.reset).setI 0x1000).idx.toNat + (1#4).toNat - 1 > 4095) := by decide
theorem witness_StoreThenLoadRestores : (2 : Reg).val = 0 ∨ ((State.reset).setI 0xFFE).idx.toNat + (2 : Reg).val - 1 ≤ 4095 := by
  decide
theorem witness_StoreThenLoadRestores_states :
    ∃ t u : State, exec (.stRegs 2) ((State.reset).setI 0xFFE) = .next t ∧ u.idx = t.idx ∧ (∀ a, u.readByte a = t.readByte a) ∧
      u.readV 0 = 9 := ⟨_, State.writeV _ 0 9, rfl, rfl, fun _ => rfl, by decide⟩
theorem witness_DrawTogglesAndDetects :
    ((0#4).toNat = 0 ∨ ((State.reset).setI 0xFFFF).idx.toNat + (0#4).toNat - 1 ≤ 4095) ∧
    ((15#4).toNat = 0 ∨ ((State.reset).setI 0xFF1).idx.toNat + (15#4).toNat - 1 ≤ 4095) := by decide
theorem witness_DrawTwiceRestores : (1 : Reg) ≠ VF ∧ (2 : Reg) ≠ VF ∧
    ((5#4).toNat = 0 ∨ (State.reset).idx.toNat + (5#4).toNat - 1 ≤ 4095) ∧
    (∃ t, exec (.drw 1 2 5) State.reset = .next t) ∧
    ∀ (r : Fin 32) (c : Fin 64), spriteBit (fun k => (State.reset).readByte ((State.reset).idx.toNat + k))
      ((State.reset).readV 1).toNat ((State.reset).readV 2).toNat (5#4).toNat r c = true →
        (State.reset).pixel r c = false :=
  ⟨by decide, by decide, by decide, ⟨_, rfl⟩, fun r c _ => by simp [State.pixel, State.reset]⟩
theorem witness_SkipOnKey : ((regs [(1, 15)]).readV 1).toNat = (15 : Key).val ∧ ((regs [(1, 16)]).readV 1).toNat > 15 := by
  decide
theorem witness_KeyPressEndsWait : ((State.reset).setStatus (.awaitingKey 15)).status = .awaitingKey 15 ∧
    (State.reset).paused = false := by decide
theorem witness_TimersCountDownToZero : (State.reset).alive = true ∧ ((State.reset).raise .stackUnderflow).alive = false := by
  decide
theorem witness_FetchIsBigEndianAndBounded : ((State.reset).setPC 0xFFE).pc.toNat ≤ 4094 ∧
    ((State.reset).setPC 0xFFF).pc.toNat = 4095 ∧ ((State.reset).setPC 0x1000).pc.toNat > 4095 := by decide
theorem witness_StepRunsDecodedInstruction : ((State.reset).withFetchWord 16 0x6A05).status = .running ∧
    ((State.reset).withFetchWord 16 0x6A05).fetch = .ok 0x6A05 ∧ decode 0x6A05 = .ok (.ldByte 10 5) ∧
    ∃ t, exec (.ldByte 10 5) ((State.reset).withFetchWord 16 0x6A05).sampleKeys = .next t ∧ t.alive = true :=
  ⟨rfl, by decide, by decide, _, rfl, rfl⟩
theorem witness_StepRunsDecodedInstruction_dead : ((State.reset).withFetchWord 16 0x00EE).status = .running ∧
    ((State.reset).withFetchWord 16 0x00EE).fetch = .ok 0x00EE ∧ decode 0x00EE = .ok .ret ∧
    ∃ t, exec .ret ((State.reset).withFetchWord 16 0x00EE).sampleKeys = .next t ∧ t.status = .dead .stackUnderflow :=
  ⟨rfl, by decide, by decide, _, rfl, rfl⟩
theorem witness_StepDiesOnBadFetchOrWord : (State.reset).status = .running ∧
    ((State.reset).setPC 0xFFF).status = .running ∧ ((State.reset).setPC 0xFFF).pc.toNat > 4094 ∧
    (State.reset).fetch = .ok 0 ∧ decode 0 = .error (.unknownOpcode 0) := ⟨rfl, rfl, by decide, by decide, by decide⟩
theorem witness_FatalErrorsArePrecise : ∃ t, step State.reset = .next t ∧ t.status = .dead (.unknownOpcode 0) :=
  ⟨_, rfl, by decide⟩
theorem witness_ExecAlwaysAnswersNext : (State.reset).alive = true ∧
    ∃ t, exec .ret State.reset = .next t ∧ t.status = .dead .stackUnderflow := ⟨rfl, _, rfl, rfl⟩
theorem witness_DeadIsAbsorbing : ((State.reset).raise .stackUnderflow).status = .dead .stackUnderflow := rfl
theorem witness_SlotsCloseAsTheFrameSays_next : (State.boot [0x12, 0x00]).status = .running ∧
    ∃ t, (State.boot [0x12, 0x00]).instrStep = .next t ∧ t.status = .running ∧ t.slot + 1 < 10 :=
  ⟨rfl, _, rfl, by decide, by decide⟩
theorem witness_SlotsCloseAsTheFrameSays_last : ((State.boot [0x12, 0x00]).setSlot 9).status = .running ∧
    ∃ t, ((State.boot [0x12, 0x00]).setSlot 9).instrStep = .next t ∧ t.status = .running ∧ t.slot + 1 ≥ 10 :=
  ⟨rfl, _, rfl, by decide, by decide⟩
theorem witness_SlotsCloseAsTheFrameSays_wait : (State.boot [0xF1, 0x0A]).status = .running ∧
    ∃ t, (State.boot [0xF1, 0x0A]).instrStep = .next t ∧ t.status = .awaitingKey 1 := ⟨rfl, _, rfl, by decide⟩
-- which of the two clauses applies is the free value's choice; one of them does
theorem witness_WaitTakesPressOrEmptyFrame : ((State.reset).setStatus (.awaitingKey 1)).status = .awaitingKey 1 ∧
    ((∃ k, Config.keyPress ((State.reset).setStatus (.awaitingKey 1)).draws = some k) ∨
      Config.keyPress ((State.reset).setStatus (.awaitingKey 1)).draws = none) := by
  refine ⟨rfl, ?_⟩
  cases Config.keyPress ((State.reset).setStatus (.awaitingKey 1)).draws with
  | none => exact .inr rfl
  | some k => exact .inl ⟨k, rfl⟩
theorem witness_StepsMakeTheFrame : (State.reset).status = .running ∧ (State.reset).slot = 0 := ⟨rfl, rfl⟩
theorem witness_JumpToSelfChangesNothing : (State.reset).pc.toNat = (0x200#12).toNat := by decide
theorem witness_PcAfterEveryInstruction : (State.reset).alive = true ∧
    (∃ t, exec .cls State.reset = .next t ∧ t.alive = true) ∧
    ∃ t, exec .ret (stack 16 0x0206 State.reset) = .next t ∧ t.alive = true :=
  ⟨rfl, ⟨_, rfl, rfl⟩, ⟨_, rfl, rfl⟩⟩
theorem witness_who_may_write : (∃ t, exec (.drw 0 1 15) State.reset = .next t) ∧
    (∃ t, exec (.stRegs 15) State.reset = .next t) ∧ ∃ t, exec (.addI 0) State.reset = .next t :=
  ⟨⟨_, rfl⟩, ⟨_, rfl⟩, ⟨_, rfl⟩⟩
theorem witness_SoundTimerIsUnread : ∃ t, exec (.ldSTVx 0) State.reset = .next t := ⟨_, rfl⟩
theorem witness_SoundTimerReachesToneAlone : (∃ t, core.run 1 (State.boot [0xF0, 0x18]) = .next t) ∧
    core.run 1 ((State.reset).raise .stackUnderflow) = .fault (.dead .stackUnderflow) := ⟨⟨_, rfl⟩, rfl⟩
theorem witness_EncodeOfDecode : decode 0x5127 = .ok (.seReg 1 2 7) := by decide
theorem witness_UnknownWordsAreExactly : decode 0x8128 = .error (.unknownOpcode 0x8128) := by decide
theorem witness_OpcodeMapPartitionsWords : decode 0x812E = .ok (.shl 1 2) ∧ (0xF00F, 0x800E) ∈ opcodeMap ∧
    matchesRow 0x812E (0xF00F, 0x800E) = true := by decide
theorem witness_ResetZeros : 0x50 ≤ 0x50 ∧ (State.reset).readByte 0x50 = 0 ∧ (State.reset).readByte 0x4F = 0x80 := by decide
theorem witness_LoadPlacesProgram : (State.reset).alive = true ∧
    (List.replicate 3584 (0x12 : Byte)).length ≤ 3584 ∧ (List.replicate 3585 (0x12 : Byte)).length > 3584 := by
  exact ⟨rfl, (List.length_replicate).le, by rw [List.length_replicate]; decide⟩
theorem witness_StepKeepsInvariant : (State.boot [0x6A, 0x05]).inv = true ∧
    ∃ t, step (State.boot [0x6A, 0x05]) = .next t := ⟨by decide, _, rfl⟩
theorem witness_EventsKeepInvariant : (State.reset).inv = true := by decide
theorem witness_CanonicalMemoryIsItsContents :
    Memory.wf [(0x300, 7)] = true ∧ ∀ a, a < 4096 → Memory.read [(0x300, 7)] a = Memory.read [(0x300, 7)] a :=
  ⟨by decide, fun _ _ => rfl⟩

end Sys2Proof.Tests
end

section
/-! PROOFS. What an instruction does, said once as an equation for `exec`; then who may write what, where PC goes, the
invariant, and what a run keeps apart. -/

namespace Sys2Proof.Machine

/-! ### One equation for every instruction -/

/-- The fatal error an instruction takes in a state, if it takes one (R180, phase execute). -/
def instrError (i : Instr) (s : State) : Option FatalError :=
  match i with
  | .ret => if s.sp.val = 0 then some .stackUnderflow else none
  | .call _ => if s.sp.val = 16 then some (.stackOverflow (s.pc + 2)) else none
  | .drw _ _ n => s.rangeError n.toNat
  | .ldB _ => s.rangeError 3
  | .stRegs x | .ldRegs x => s.rangeError x.val
  | _ => none

/-- The state an instruction completes in, where it takes no error. -/
def instrEffect (i : Instr) (s : State) : State :=
  match i with
  | .cls => (s.setFB clearGrid).advance
  | .ret => (s.setStack s.stk ⟨s.sp.val - 1, by omega⟩).setPC s.stk[s.sp.val - 1]
  | .jp nnn => s.setPC (zext16OfAddr nnn)
  | .call nnn =>
    (s.setStack (s.stk.setIfInBounds s.sp.val (s.pc + 2)) (Fin.ofNat 17 (s.sp.val + 1))).setPC (zext16OfAddr nnn)
  | .seByte x kk => s.skipIf (s.readV x == kk)
  | .sneByte x kk => s.skipIf (s.readV x != kk)
  | .seReg x y _ => s.skipIf (s.readV x == s.readV y)
  | .sneReg x y _ => s.skipIf (s.readV x != s.readV y)
  | .skp x => s.skipIf (s.keyHeld (s.readV x))
  | .sknp x => s.skipIf (!s.keyHeld (s.readV x))
  | .ldByte x kk => s.result x kk
  | .addByte x kk => s.result x (s.readV x + kk)
  | .ldReg x y => s.result x (s.readV y)
  | .orReg x y => s.result x (s.readV x ||| s.readV y)
  | .andReg x y => s.result x (s.readV x &&& s.readV y)
  | .xorReg x y => s.result x (s.readV x ^^^ s.readV y)
  | .ldVxDT x => s.result x s.dt
  | .rnd x kk => s.countDraw.result x (Config.randByte s.draws &&& kk)
  | .addReg x y => s.flaggedResult x (carryFlag (s.readV x) (s.readV y)) (s.readV x + s.readV y)
  | .sub x y => s.flaggedResult x (greaterFlag (s.readV x) (s.readV y)) (s.readV x - s.readV y)
  | .shr x _ => s.flaggedResult x (lowBitFlag (s.readV x)) (s.readV x >>> 1)
  | .subn x y => s.flaggedResult x (greaterFlag (s.readV y) (s.readV x)) (s.readV y - s.readV x)
  | .shl x _ => s.flaggedResult x (highBitFlag (s.readV x)) (s.readV x <<< 1)
  | .drw x y n => (s.setFB (drawn s x y n).1).result VF (flagOf (drawn s x y n).2)
  | .ldI nnn => (s.setI (zext16OfAddr nnn)).advance
  | .addI x => (s.setI (s.idx + zext16OfByte (s.readV x))).advance
  | .ldF x => (s.setI (glyphAddr (s.readV x))).advance
  | .jpV0 nnn => s.setPC (zext16OfAddr nnn + zext16OfByte (s.readV 0))
  | .ldVxK x => (s.setStatus (.awaitingKey x)).advance
  | .ldDTVx x => (s.setDT (s.readV x)).advance
  | .ldSTVx x => (s.setST (s.readV x)).advance
  | .ldB x => (s.setMem (s.mem.writeBytes s.idx.toNat (bcdDigits (s.readV x)))).advance
  | .stRegs x => (s.setMem (s.mem.writeBytes s.idx.toNat (s.firstRegs x))).advance
  | .ldRegs x => (s.writeFirstRegs ((List.range x.val).map fun k => s.readByte (s.idx.toNat + k))).advance

/-- The state an instruction goes to: the error taken from the state before, or its own effect (R176). -/
def instrAfter (i : Instr) (s : State) : State :=
  match instrError i s with
  | some e => s.raise e
  | none => instrEffect i s

theorem instrAfter_error {i : Instr} {s : State} {e : FatalError} (h : instrError i s = some e) :
    instrAfter i s = s.raise e := by simp only [instrAfter, h]

theorem instrAfter_none {i : Instr} {s : State} (h : instrError i s = none) :
    instrAfter i s = instrEffect i s := by simp only [instrAfter, h]

theorem exec_eq_of_error {i : Instr} {s : State} {e : FatalError} (he : instrError i s = some e)
    (h : exec i s = .next (s.raise e)) : exec i s = .next (instrAfter i s) := by rw [h, instrAfter_error he]

theorem exec_eq_of_effect {i : Instr} {s : State} (he : instrError i s = none)
    (h : exec i s = .next (instrEffect i s)) : exec i s = .next (instrAfter i s) := by rw [h, instrAfter_none he]

/-- Every instruction answers a next state, the one `instrAfter` names. -/
theorem exec_eq (i : Instr) (s : State) : exec i s = .next (instrAfter i s) := by
  cases i
  case ret =>
    rcases execRet_cases s with ⟨h, h'⟩ | ⟨h, h'⟩
    · exact exec_eq_of_error (if_pos h) h'
    · exact exec_eq_of_effect (if_neg (Nat.ne_of_gt h)) h'
  case call nnn =>
    rcases execCall_cases s nnn with ⟨h, h'⟩ | ⟨h, h'⟩
    · exact exec_eq_of_error (if_pos h) h'
    · have hsp : Fin.ofNat 17 (s.sp.val + 1) = ⟨s.sp.val + 1, by omega⟩ :=
        Fin.ext (Nat.mod_eq_of_lt (by omega))
      have hstk : s.stk.setIfInBounds s.sp.val (s.pc + 2) = s.stk.set s.sp.val (s.pc + 2) h :=
        Vector.toArray_inj.1 (dif_pos (by simpa using h))
      refine exec_eq_of_effect (if_neg (Nat.ne_of_lt h)) ?_
      simp only [instrEffect, hstk, hsp]
      exact h'
  case ldB x =>
    rcases execLdB_cases s x with ⟨h, h'⟩ | ⟨h, h'⟩
    · exact exec_eq_of_error (State.rangeError_some (by decide) h) h'
    · exact exec_eq_of_effect (State.rangeError_none (.inr h)) h'
  case stRegs x =>
    rcases execStRegs_cases s x with ⟨h1, h2, h'⟩ | ⟨h, h'⟩
    · exact exec_eq_of_error (State.rangeError_some h1 h2) h'
    · exact exec_eq_of_effect (State.rangeError_none h) h'
  case ldRegs x =>
    rcases execLdRegs_cases s x with ⟨h1, h2, h'⟩ | ⟨h, h'⟩
    · exact exec_eq_of_error (State.rangeError_some h1 h2) h'
    · exact exec_eq_of_effect (State.rangeError_none h) h'
  case drw x y n =>
    rcases execDrw_cases s x y n with ⟨h1, h2, h'⟩ | ⟨h, h'⟩
    · exact exec_eq_of_error (State.rangeError_some h1 h2) h'
    · exact exec_eq_of_effect (State.rangeError_none h) h'
  all_goals rfl

/-- The two ways an instruction ends. -/
theorem exec_next_cases {i : Instr} {s t : State} (h : exec i s = .next t) :
    (∃ e, instrError i s = some e ∧ t = s.raise e) ∨ (instrError i s = none ∧ t = instrEffect i s) := by
  rw [exec_eq] at h
  cases h
  cases he : instrError i s with
  | some e => exact .inl ⟨e, rfl, instrAfter_error he⟩
  | none => exact .inr ⟨rfl, instrAfter_none he⟩

/-- An instruction that ends alive has completed. -/
theorem exec_completed {i : Instr} {s t : State} (h : exec i s = .next t) (ht : t.alive = true) :
    instrError i s = none ∧ t = instrEffect i s := by
  rcases exec_next_cases h with ⟨e, -, rfl⟩ | h
  · exact absurd ht Bool.false_ne_true
  · exact h

/-! ### Who writes which register -/

/-- A completed instruction leaves a register alone that is not its destination, not the VF of a flag writer, and not
below the `x` of Fx65 (R22, R37, R147). -/
theorem instrEffect_readV {i : Instr} {r : Reg} (s : State) (hd : i.dest ≠ some r)
    (hf : i.writesFlag = true → r ≠ VF) (hl : ∀ x, i = .ldRegs x → x.val ≤ r.val) :
    (instrEffect i s).readV r = s.readV r := by
  cases i
  case ldRegs x =>
    have hx : x.val ≤ r.val := hl x rfl
    simp [instrEffect, List.getD, List.getElem?_eq_none, hx]
  case drw x y n => simp [instrEffect, hf rfl]
  case addReg x y | sub x y | shr x y | subn x y | shl x y =>
    have hx : r ≠ x := fun h => hd (congrArg some h.symm)
    simp [instrEffect, hf rfl, hx]
  case ldByte x _ | addByte x _ | ldReg x _ | orReg x _ | andReg x _ | xorReg x _ | rnd x _ | ldVxDT x =>
    have hx : r ≠ x := fun h => hd (congrArg some h.symm)
    simp [instrEffect, hx]
  all_goals rfl

/-- The same of an instruction that may take an error, which writes no register (R176). -/
theorem exec_readV {i : Instr} {s t : State} {r : Reg} (h : exec i s = .next t) (hd : i.dest ≠ some r)
    (hf : i.writesFlag = true → r ≠ VF) (hl : ∀ x, i = .ldRegs x → x.val ≤ r.val) : t.readV r = s.readV r := by
  rcases exec_next_cases h with ⟨e, -, rfl⟩ | ⟨-, rfl⟩
  · rfl
  · exact instrEffect_readV s hd hf hl

/-- Settles O14: the frame of one register, at VF, which is below the `x` of no Fx65. -/
theorem onlyFlagWritersTouchVF : Obligations.OnlyFlagWritersTouchVF := by
  intro i s t h hf hd
  exact exec_readV h hd (fun hw => absurd (hf.symm.trans hw) Bool.false_ne_true)
    (fun x _ => Nat.le_of_lt_succ x.isLt)

/-- Settles O16: the frame of one register, at a register other than VF. -/
theorem registersOutsideDestinationStay : Obligations.RegistersOutsideDestinationStay := by
  intro i s t r h hd hv hl
  exact exec_readV h hd (fun _ => hv) hl

theorem flagOf_eq_zero_or_one (c : Bool) : flagOf c = 0 ∨ flagOf c = 1 := by
  cases c
  · exact .inl rfl
  · exact .inr rfl

/-- A flag writer that does not name VF leaves the 0x00 or 0x01 of a condition there (R22). -/
theorem instrEffect_flag {i : Instr} (s : State) (hw : i.writesFlag = true) (hd : i.dest ≠ some VF) :
    ∃ c, (instrEffect i s).readV VF = flagOf c := by
  cases i
  case addReg x y | sub x y | shr x y | subn x y | shl x y =>
    have hx : VF ≠ x := fun h => hd (congrArg some h.symm)
    exact ⟨_, (State.flaggedResult_readV ..).trans ((if_neg hx).trans (if_pos rfl))⟩
  case drw x y n => exact ⟨_, (State.result_readV ..).trans (if_pos rfl)⟩
  all_goals cases hw

/-- Settles O15: the flag written is that of a condition. -/
theorem flagIsZeroOrOne : Obligations.FlagIsZeroOrOne := by
  intro i s t _ h ht hw hd
  obtain ⟨-, rfl⟩ := exec_completed h ht
  obtain ⟨c, hc⟩ := instrEffect_flag s hw hd
  rw [hc]
  exact flagOf_eq_zero_or_one c

/-! ### Who writes the index register and the timers -/

/-- Settles O44: an error writes none of the three, and a completed instruction only its own. -/
theorem onlyTheirInstructionsWriteIndexAndTimers : Obligations.OnlyTheirInstructionsWriteIndexAndTimers := by
  intro i s t h
  rcases exec_next_cases h with ⟨e, -, rfl⟩ | ⟨-, rfl⟩
  · exact ⟨.inl rfl, .inl rfl, .inl rfl⟩
  cases i
  case ldI nnn => exact ⟨.inr (.inl ⟨nnn, rfl⟩), .inl rfl, .inl rfl⟩
  case addI x => exact ⟨.inr (.inr ⟨x, .inl rfl⟩), .inl rfl, .inl rfl⟩
  case ldF x => exact ⟨.inr (.inr ⟨x, .inr rfl⟩), .inl rfl, .inl rfl⟩
  case ldDTVx x => exact ⟨.inl rfl, .inr ⟨x, rfl⟩, .inl rfl⟩
  case ldSTVx x => exact ⟨.inl rfl, .inl rfl, .inr ⟨x, rfl⟩⟩
  all_goals exact ⟨.inl rfl, .inl rfl, .inl rfl⟩

/-! ### Where PC goes -/

theorem byte_beq_eq (a b : Byte) : (a == b) = decide (a.toNat = b.toNat) := by
  rw [Bool.eq_iff_iff, beq_iff_eq, decide_eq_true_eq, BitVec.toNat_inj]

theorem byte_bne_eq (a b : Byte) : (a != b) = decide (a.toNat ≠ b.toNat) := by
  rw [bne, byte_beq_eq, decide_not]

/-- A skip in numbers (R100). -/
theorem State.skipIf_pc_toNat (s : State) (c : Bool) :
    (s.skipIf c).pc.toNat = if c then (s.pc.toNat + 4) % 65536 else (s.pc.toNat + 2) % 65536 := by
  cases c
  · exact BitVec.toNat_add s.pc 2
  · have h2 : (2 : Word).toNat = 2 := rfl
    simp only [State.skipIf_pc, if_true, BitVec.toNat_add, h2]
    omega

/-- The top entry of a stack in use is the last of the entries in use (R25). -/
theorem State.top_eq_getLastD {s : State} (h : 0 < s.sp.val) :
    (s.stk.toList.take s.sp.val).getLastD 0 = s.stk[s.sp.val - 1] := by
  have hl : s.stk.toList.length = 16 := Vector.length_toList
  rw [List.getLastD_eq_getLast?, List.getLast?_eq_getElem?, List.length_take, hl,
    Nat.min_eq_left (by omega), List.getElem?_take_of_lt (by omega), List.getElem?_eq_getElem (by omega)]
  simp

/-- A completed instruction leaves PC where R24's table says. -/
theorem instrEffect_pc {i : Instr} {s : State} (h : instrError i s = none) :
    (instrEffect i s).pc.toNat = pcAfter i s := by
  cases i
  case ret =>
    have hsp : 0 < s.sp.val := by simp [instrError] at h; omega
    simp only [pcAfter, State.top_eq_getLastD hsp]; rfl
  case jp nnn | call nnn => exact zext16OfAddr_toNat nnn
  case jpV0 nnn =>
    have hv := (s.readV 0).isLt
    simp only [instrEffect, pcAfter, State.setPC_pc, BitVec.toNat_add, zext16OfAddr_toNat, zext16OfByte_toNat]
    omega
  case seByte | sneByte | seReg | sneReg =>
    simp only [instrEffect, State.skipIf_pc_toNat, byte_beq_eq, byte_bne_eq, pcAfter]
  case skp | sknp =>
    simp only [instrEffect, State.skipIf_pc_toNat, State.keyHeld_eq, pcAfter]
  case ldRegs x =>
    simp only [instrEffect, State.advance_pc, State.writeFirstRegs_pc]
    exact BitVec.toNat_add s.pc 2
  all_goals exact BitVec.toNat_add s.pc 2

/-- Settles O42: an instruction that ends alive has completed. -/
theorem pcAfterEveryInstruction : Obligations.PcAfterEveryInstruction := by
  intro i s t _ h ht
  obtain ⟨he, rfl⟩ := exec_completed h ht
  exact instrEffect_pc he

end Sys2Proof.Machine
end

section
/-! PROOFS. Memory in canonical form, and the state after reset. -/

namespace Sys2Proof.Machine

/-! ### Memory in canonical form -/

theorem Memory.wfFrom_cons {lo a : Nat} {b : Byte} {m : Memory} :
    Memory.wfFrom lo ((a, b) :: m) = true ↔
      lo ≤ a ∧ a < 4096 ∧ b ≠ Memory.unlisted a ∧ Memory.wfFrom (a + 1) m = true := by
  simp only [Memory.wfFrom, Bool.and_eq_true, decide_eq_true_eq, and_assoc]

/-- Below its first cell a canonical memory reads as its reset contents. -/
theorem Memory.read_below {lo a : Nat} {m : Memory} (h : Memory.wfFrom lo m = true) (ha : a < lo) :
    m.read a = Memory.unlisted a := by
  induction m generalizing lo with
  | nil => rfl
  | cons c m ih =>
    obtain ⟨k, b⟩ := c
    obtain ⟨hk, -, -, hm⟩ := Memory.wfFrom_cons.1 h
    rw [Memory.read, if_neg (by omega)]
    exact ih hm (by omega)

/-- A canonical memory that reads as its reset contents everywhere lists nothing. -/
theorem Memory.eq_nil_of_read {lo : Nat} {m : Memory} (h : Memory.wfFrom lo m = true)
    (hr : ∀ a, a < 4096 → m.read a = Memory.unlisted a) : m = [] := by
  cases m with
  | nil => rfl
  | cons c m =>
    obtain ⟨k, b⟩ := c
    obtain ⟨-, hk, hb, -⟩ := Memory.wfFrom_cons.1 h
    exact absurd ((if_pos rfl).symm.trans (hr k hk)) hb

/-- Of two canonical memories that read alike, the second has no first cell above that of the first. -/
theorem Memory.head_le_of_read {lo lo' k k' : Nat} {b b' : Byte} {m m' : Memory}
    (h : Memory.wfFrom lo ((k, b) :: m) = true) (h' : Memory.wfFrom lo' ((k', b') :: m') = true)
    (hr : ∀ a, a < 4096 → Memory.read ((k, b) :: m) a = Memory.read ((k', b') :: m') a) : k' ≤ k := by
  by_contra hlt
  obtain ⟨-, hk, hb, -⟩ := Memory.wfFrom_cons.1 h
  obtain ⟨-, hrest⟩ := Memory.wfFrom_cons.1 h'
  have hread : Memory.read ((k', b') :: m') k = Memory.unlisted k :=
    Memory.read_below (lo := k') (Memory.wfFrom_cons.2 ⟨le_rfl, hrest⟩) (by omega)
  exact hb ((if_pos rfl).symm.trans ((hr k hk).trans hread))

/-- Two memories canonical from the same address on that read alike are equal. -/
theorem Memory.eq_of_read {lo : Nat} {m m' : Memory} (h : Memory.wfFrom lo m = true)
    (h' : Memory.wfFrom lo m' = true) (hr : ∀ a, a < 4096 → m.read a = m'.read a) : m = m' := by
  induction m generalizing lo m' with
  | nil => exact (Memory.eq_nil_of_read h' fun a ha => (hr a ha).symm).symm
  | cons c m ih =>
    cases m' with
    | nil => exact Memory.eq_nil_of_read h hr
    | cons c' m' =>
      obtain ⟨k, b⟩ := c
      obtain ⟨k', b'⟩ := c'
      obtain rfl : k = k' := Nat.le_antisymm
        (Memory.head_le_of_read h' h fun a ha => (hr a ha).symm) (Memory.head_le_of_read h h' hr)
      obtain ⟨-, hk, -, hm⟩ := Memory.wfFrom_cons.1 h
      obtain ⟨-, -, -, hm'⟩ := Memory.wfFrom_cons.1 h'
      obtain rfl : b = b' := by simpa [Memory.read] using hr k hk
      have htail : ∀ a, a < 4096 → Memory.read m a = Memory.read m' a := by
        intro a ha
        by_cases hak : a < k + 1
        · rw [Memory.read_below hm hak, Memory.read_below hm' hak]
        · simpa [Memory.read, show a ≠ k by omega] using hr a ha
      rw [ih hm hm' htail]

/-- Settles O58: both memories are canonical from address 0 on. -/
theorem canonicalMemoryIsItsContents : Obligations.CanonicalMemoryIsItsContents :=
  fun _ _ h h' hr => Memory.eq_of_read h h' hr

/-! ### Reset -/

/-- Settles O52: glyph 0 is the font's first five bytes. -/
theorem resetEntryPointAndGlyphZero : Obligations.ResetEntryPointAndGlyphZero :=
  ⟨rfl, rfl, by decide⟩

/-- Settles O53: nothing is listed in memory at reset, and above the font an unlisted byte is zero. -/
theorem resetZeros : Obligations.ResetZeros := by
  refine ⟨?regs, rfl, rfl, ?stack, rfl, rfl, ?pixels, fun a ha => Memory.unlisted_above ha⟩
  case regs => intro r; simp [State.readV, State.reset]
  case stack => intro j; simp [State.reset]
  case pixels => intro r c; simp [State.pixel, State.reset]

end Sys2Proof.Machine
end

section
/-! PROOFS. The invariant: it holds at reset, and every step keeps it. -/

namespace Sys2Proof.Machine

/-! ### The invariant in parts -/

/-- The part of the invariant that neither status nor Frame position enters: memory in canonical form, PC at most
0x10FE (R24), every stack entry in use between 0x0002 and 0x1000 (R104). -/
structure State.Bounded (s : State) : Prop where
  mem : s.mem.wf = true
  pc : s.pc.toNat ≤ 0x10FE
  stack : ∀ (j : Nat) (h : j < 16), j < s.sp.val → 2 ≤ s.stk[j].toNat ∧ s.stk[j].toNat ≤ 0x1000

/-- A property of the stack entries in use, by entry and by place. -/
theorem State.forall_used_iff (s : State) (p : Word → Prop) :
    (∀ w ∈ s.stk.toList.take s.sp.val, p w) ↔ ∀ (j : Nat) (h : j < 16), j < s.sp.val → p s.stk[j] := by
  rw [List.forall_mem_iff_forall_getElem]
  simp only [List.length_take, Vector.length_toList, List.getElem_take, Vector.getElem_toList, lt_inf_iff]
  exact ⟨fun h j hj hs => h j ⟨hs, hj⟩, fun h j hj => h j hj.2 hj.1⟩

theorem State.inv_iff (s : State) : s.inv = true ↔ s.Bounded ∧ s.slot < 10 ∧ s.statusOk = true := by
  simp only [State.inv, Bool.and_eq_true, decide_eq_true_eq, List.all_eq_true]
  rw [State.forall_used_iff s fun w => 2 ≤ w.toNat ∧ w.toNat ≤ 0x1000]
  constructor
  · rintro ⟨⟨⟨⟨hm, hslot⟩, hpc⟩, hstk⟩, hok⟩
    exact ⟨⟨hm, hpc, hstk⟩, hslot, hok⟩
  · rintro ⟨⟨hm, hpc, hstk⟩, hslot, hok⟩
    exact ⟨⟨⟨⟨hm, hslot⟩, hpc⟩, hstk⟩, hok⟩

/-- `Bounded` speaks of memory, PC and stack alone. -/
theorem State.Bounded.congr {s t : State} (h : s.Bounded) (hm : t.mem = s.mem) (hpc : t.pc = s.pc)
    (hstk : t.stk = s.stk) (hsp : t.sp = s.sp) : t.Bounded :=
  ⟨hm ▸ h.mem, hpc ▸ h.pc, by rw [hstk, hsp]; exact h.stack⟩

/-- Settles O56: nothing is listed in memory, PC is 0x200, the stack is empty and the core is Running. -/
theorem resetMeetsInvariant : Obligations.ResetMeetsInvariant :=
  (State.inv_iff _).2
    ⟨⟨State.reset_mem_wf, by decide, fun j _ hj => absurd hj (Nat.not_lt_zero j)⟩, by decide, rfl⟩

/-! ### A completed instruction keeps the bounds -/

theorem State.rangeError_eq_none_iff {s : State} {len : Nat} :
    s.rangeError len = none ↔ len = 0 ∨ s.idx.toNat + len ≤ 4096 := by
  rcases State.rangeError_cases s len with ⟨h, hl⟩ | ⟨h, h1, h2⟩
  · exact ⟨fun _ => hl, fun _ => h⟩
  · exact ⟨fun hn => (Option.some_ne_none _ (h.symm.trans hn)).elim, fun hl => by omega⟩

/-- The two stores write inside the address space, and nothing else writes memory. -/
theorem instrEffect_mem_wf {i : Instr} {s : State} (he : instrError i s = none) (h : s.mem.wf = true) :
    (instrEffect i s).mem.wf = true := by
  cases i
  case ldB x =>
    have hr : s.idx.toNat + 3 ≤ 4096 := (State.rangeError_eq_none_iff.1 he).resolve_left (by decide)
    exact Memory.wf_writeBytes h (.inr hr)
  case stRegs x =>
    rcases State.rangeError_eq_none_iff.1 he with hx | hr
    · exact Memory.wf_writeBytes h (.inl (List.length_eq_zero_iff.1 ((State.firstRegs_length s x).trans hx)))
    · exact Memory.wf_writeBytes h (.inr (by rwa [State.firstRegs_length]))
  case ldRegs x => simpa only [instrEffect, State.advance_mem, State.writeFirstRegs_mem] using h
  all_goals exact h

/-- The table of R24 leads no further than 0x10FE: a jump with offset reaches 4095 + 255 (R103), a skip from the last
address a fetch can start at 4098. -/
theorem pcAfter_le {i : Instr} {s : State} (he : instrError i s = none) (h : s.Bounded) (hpc : s.pc.toNat < 4095) :
    pcAfter i s ≤ 0x10FE := by
  have hskip (c : Bool) : (if c then (s.pc.toNat + 4) % 65536 else (s.pc.toNat + 2) % 65536) ≤ 0x10FE := by
    split <;> omega
  cases i
  case jp nnn | call nnn => have := nnn.isLt; simp only [pcAfter]; omega
  case jpV0 nnn =>
    have hn := nnn.isLt
    have hv := (s.readV 0).isLt
    simp only [pcAfter]; omega
  case ret =>
    have hsp : s.sp.val ≠ 0 := by simpa [instrError] using he
    have htop := (h.stack (s.sp.val - 1) (by omega) (by omega)).2
    simp only [pcAfter, State.top_eq_getLastD (Nat.pos_of_ne_zero hsp)]; omega
  case seByte | sneByte | seReg | sneReg | skp | sknp => exact hskip _
  all_goals exact hskip false

/-- A call pushes a + 2, a return leaves fewer entries in use, and nothing else touches the stack. -/
theorem instrEffect_stack {i : Instr} {s : State} (h : s.Bounded) (hpc : s.pc.toNat < 4095) (j : Nat) (hj : j < 16)
    (hu : j < (instrEffect i s).sp.val) :
    2 ≤ ((instrEffect i s).stk[j]).toNat ∧ ((instrEffect i s).stk[j]).toNat ≤ 0x1000 := by
  cases i
  case ret => exact h.stack j hj (Nat.lt_of_lt_of_le hu (Nat.sub_le _ _))
  case call nnn =>
    have hu' : j < s.sp.val + 1 := Nat.lt_of_lt_of_le hu (Nat.mod_le _ _)
    simp only [instrEffect, State.setPC_stk, State.setStack_stk, Vector.getElem_setIfInBounds]
    split
    · have h2 : (2 : Word).toNat = 2 := rfl
      rw [BitVec.toNat_add, h2]; omega
    · exact h.stack j hj (by omega)
  case ldRegs x =>
    simp only [instrEffect, State.advance_sp, State.writeFirstRegs_sp, State.advance_stk,
      State.writeFirstRegs_stk] at hu ⊢
    exact h.stack j hj hu
  all_goals exact h.stack j hj hu

/-- An instruction fetched below address 4095 that completes keeps the bounds. -/
theorem instrEffect_bounded {i : Instr} {s : State} (he : instrError i s = none) (h : s.Bounded)
    (hpc : s.pc.toNat < 4095) : (instrEffect i s).Bounded :=
  ⟨instrEffect_mem_wf he h.mem, (instrEffect_pc he).trans_le (pcAfter_le he h hpc), instrEffect_stack h hpc⟩

/-! ### The status after an instruction step -/

/-- The error an instruction takes is the one its state shows (R170). -/
theorem deadOk_of_instrError {i : Instr} {s : State} {e : FatalError} (he : instrError i s = some e) :
    s.deadOk e = true := by
  have hrange (len : Nat) (hr : s.rangeError len = some e) : s.deadOk e = true := by
    rcases State.rangeError_cases s len with ⟨h, -⟩ | ⟨h, -⟩
    · exact nomatch h.symm.trans hr
    · obtain rfl := Option.some.inj (h.symm.trans hr)
      exact decide_eq_true (by omega)
  cases i
  case ret =>
    obtain ⟨hsp, rfl⟩ : s.sp.val = 0 ∧ FatalError.stackUnderflow = e := by simpa [instrError] using he
    exact beq_iff_eq.2 hsp
  case call nnn =>
    obtain ⟨hsp, rfl⟩ : s.sp.val = 16 ∧ FatalError.stackOverflow (s.pc + 2) = e := by simpa [instrError] using he
    simp [State.deadOk, hsp]
  case drw | ldB | stRegs | ldRegs => exact hrange _ he
  all_goals exact nomatch he

/-- An error recorded is judged by the state it was taken from, which differs in `status` alone (R176). -/
theorem State.statusOk_raise (s : State) (e : FatalError) : (s.raise e).statusOk = s.deadOk e := by
  cases e <;> rfl

/-- A completed instruction leaves the status as it is or begins the key wait (R163). -/
theorem instrEffect_status (i : Instr) (s : State) :
    (instrEffect i s).status = s.status ∨ ∃ x, (instrEffect i s).status = .awaitingKey x := by
  cases i
  case ldVxK x => exact .inr ⟨x, rfl⟩
  case ldRegs x => exact .inl (by simp only [instrEffect, State.advance_status, State.writeFirstRegs_status])
  all_goals exact .inl rfl

/-- An instruction step of a Running core dies of an error its state shows, or goes to a state within the bounds that
is Running or in the key wait. -/
theorem State.instrStep_bounded {s : State} (h : s.Bounded) (hrun : s.status = .running) :
    (∃ e, s.instrStep = .next (s.raise e) ∧ s.deadOk e = true) ∨
      ∃ t, s.instrStep = .next t ∧ t.Bounded ∧
        (t.status = .running ∨ ∃ x, t.status = .awaitingKey x) := by
  rcases State.instrStep_cases s with ⟨e, hf, hs⟩ | ⟨w, r, hf, hd, hs⟩ | ⟨w, i, hf, hd, hs⟩
  · refine .inl ⟨e, hs, ?_⟩
    rw [State.fetch_eq] at hf
    split at hf
    · cases hf
    · cases hf
      exact decide_eq_true (by omega)
  · exact .inl ⟨_, hs, by simp [State.deadOk, hf, hd]⟩
  · rw [exec_eq] at hs
    cases he : instrError i s.sampleKeys with
    | some e =>
      rw [instrAfter_error he] at hs
      exact .inl ⟨e, hs, deadOk_of_instrError (s := s) (i := i) he⟩
    | none =>
      rw [instrAfter_none he] at hs
      have hb : (instrEffect i s.sampleKeys).Bounded :=
        instrEffect_bounded he (h.congr rfl rfl rfl rfl) (State.fetch_ok hf).1
      rcases instrEffect_status i s.sampleKeys with hst | ⟨x, hst⟩
      · have hst' := hst.trans hrun
        exact .inr ⟨_, by rw [hs]; simp only [State.settle, hst'], hb, .inl hst'⟩
      · exact .inr ⟨_, by rw [hs]; simp only [State.settle, hst], hb, .inr ⟨x, hst⟩⟩

/-! ### The end of a slot and of a Frame -/

/-- The tick leaves a Dead core alone (R186). -/
theorem State.endFrame_dead {s : State} {e : FatalError} (h : s.status = .dead e) :
    s.endFrame = s.setOutputs (decide (s.st.toNat > 0)) := by
  simp [State.endFrame, State.endFrameWith, State.timerTick, h]

/-- The end of a Frame writes the timers and the outputs alone. -/
theorem State.endFrame_frame (s : State) :
    ∃ dt st tone, s.endFrame = ((s.setDT dt).setST st).setOutputs tone := by
  cases h : s.status with
  | running => exact ⟨_, _, _, State.endFrame_running h⟩
  | awaitingKey x => exact ⟨s.dt, s.st, _, State.endFrame_waiting h⟩
  | dead e => exact ⟨s.dt, s.st, _, State.endFrame_dead h⟩

/-- A core within the bounds that is not Dead and has no slot used meets the invariant. -/
theorem State.inv_of_slot_zero {s : State} (h : s.Bounded) (ha : s.alive = true) (hslot : s.slot = 0) :
    s.inv = true := by
  refine (State.inv_iff s).2 ⟨h, by omega, ?_⟩
  cases hst : s.status with
  | running => simp only [State.statusOk, hst]
  | awaitingKey x => simp only [State.statusOk, hst, hslot]; rfl
  | dead e => simp [State.alive, hst] at ha

/-- The end of a Frame keeps the bounds, the status and the position. -/
theorem State.endFrame_keeps {s : State} (h : s.Bounded) :
    s.endFrame.Bounded ∧ s.endFrame.alive = s.alive ∧ s.endFrame.slot = s.slot := by
  obtain ⟨dt, st, tone, he⟩ := State.endFrame_frame s
  rw [he]
  exact ⟨h.congr rfl rfl rfl rfl, rfl, rfl⟩

/-- Closing the slot of a core that is not Dead: the next slot, or the start of a Frame. -/
theorem State.closeSlot_inv {t : State} (h : t.Bounded)
    (hst : t.status = .running ∨ ∃ x, t.status = .awaitingKey x) : t.closeSlot.inv = true := by
  have hend (ha : t.alive = true) : (t.endFrame.setSlot 0).inv = true := by
    obtain ⟨hb, halive, -⟩ := State.endFrame_keeps h
    exact State.inv_of_slot_zero (hb.congr rfl rfl rfl rfl) (halive.trans ha) rfl
  rcases hst with hrun | ⟨x, hwait⟩
  · have ha : t.alive = true := by simp only [State.alive, hrun]
    by_cases hk : t.slot + 1 < 10
    · rw [State.closeSlot_next hrun hk]
      exact (State.inv_iff _).2 ⟨h.congr rfl rfl rfl rfl, hk, by simp only [State.statusOk, State.setSlot_status, hrun]⟩
    · rw [State.closeSlot_last hrun (Nat.le_of_not_lt hk)]
      exact hend ha
  · rw [State.closeSlot_waiting hwait]
    exact hend (by simp only [State.alive, hwait])

/-! ### The step -/

/-- A slot of a Running core: a death its state shows, which keeps all else, or an instruction and the close. -/
theorem slotStep_keeps_inv {s t : State} (h : s.inv = true) (hrun : s.status = .running) (hs : step s = .next t) :
    t.inv = true := by
  obtain ⟨hb, hslot, -⟩ := (State.inv_iff s).1 h
  rcases State.instrStep_bounded hb hrun with ⟨e, hi, hok⟩ | ⟨u, hi, hbu, hst⟩
  · obtain rfl := Host.Outcome.next.inj ((step_running hrun hi).symm.trans hs)
    rw [State.closeSlot_dead (State.raise_status s e)]
    exact (State.inv_iff _).2 ⟨hb.congr rfl rfl rfl rfl, hslot, (State.statusOk_raise s e).trans hok⟩
  · obtain rfl := Host.Outcome.next.inj ((step_running hrun hi).symm.trans hs)
    exact State.closeSlot_inv hbu hst

/-- An event of the key wait, where no slot is used: a key press, or a Frame with every slot empty. -/
theorem waitStep_keeps_inv {s : State} {x : Reg} (h : s.inv = true) (hwait : s.status = .awaitingKey x) :
    s.waitStep.inv = true := by
  obtain ⟨hb, -, hok⟩ := (State.inv_iff s).1 h
  have hslot : s.slot = 0 := by simpa [State.statusOk, hwait] using hok
  unfold State.waitStep
  cases Config.keyPress s.draws with
  | some k =>
    have hpress : s.countDraw.keyPress k = (s.countDraw.writeV x (BitVec.ofNat 8 k.val)).setStatus .running := by
      simp [State.keyPress, hwait]
    simp only [hpress]
    exact State.inv_of_slot_zero (hb.congr rfl rfl rfl rfl) rfl hslot
  | none =>
    obtain ⟨hbe, halive, hslote⟩ := State.endFrame_keeps (s := s.countDraw) (hb.congr rfl rfl rfl rfl)
    exact State.inv_of_slot_zero hbe (halive.trans (by simp [State.alive, hwait])) (hslote.trans hslot)

/-- Settles O55, by the status before the step. -/
theorem stepKeepsInvariant : Obligations.StepKeepsInvariant := by
  intro s t h hs
  cases hst : s.status with
  | running => exact slotStep_keeps_inv h hst hs
  | awaitingKey x =>
    obtain rfl := Host.Outcome.next.inj ((step_waiting hst).symm.trans hs)
    exact waitStep_keeps_inv h hst
  | dead e => exact nomatch (step_dead hst).symm.trans hs

end Sys2Proof.Machine
end

section
/-! PROOFS. The sound timer: it reaches the tone level and nothing else (R27, R195). -/

namespace Sys2Proof.Machine

/-- The state with another sound timer and another tone level. -/
def State.withSound (s : State) (n : Byte) (c : Bool) : State := { s with st := n, toneOn := c }

/-- The two states differ in the sound timer and the tone level alone. -/
def SoundAlone (s s' : State) : Prop := ∃ n c, s' = s.withSound n c

theorem SoundAlone.status_eq {s s' : State} (h : SoundAlone s s') : s'.status = s.status := by
  obtain ⟨n, c, rfl⟩ := h; rfl

theorem SoundAlone.slot_eq {s s' : State} (h : SoundAlone s s') : s'.slot = s.slot := by
  obtain ⟨n, c, rfl⟩ := h; rfl

/-! ### One instruction -/

/-- No error depends on the sound timer. -/
theorem instrError_withSound (i : Instr) (s : State) (n : Byte) (c : Bool) :
    instrError i (s.withSound n c) = instrError i s := by
  cases i <;> rfl

/-- No effect depends on it: Fx18 overwrites it, and every other instruction leaves it (R27, R167). -/
theorem instrEffect_withSound (i : Instr) (s : State) (n : Byte) (c : Bool) :
    instrEffect i (s.withSound n c) = (instrEffect i s).withSound (instrEffect i (s.withSound n c)).st c := by
  cases i <;> rfl

/-- An instruction goes from states that differ in sound alone to states that do, and writes no tone level. -/
theorem instrAfter_withSound (i : Instr) (s : State) (n : Byte) (c : Bool) :
    ∃ m, instrAfter i (s.withSound n c) = (instrAfter i s).withSound m c := by
  cases he : instrError i s with
  | some e =>
    rw [instrAfter_error he, instrAfter_error ((instrError_withSound i s n c).trans he)]
    exact ⟨n, rfl⟩
  | none =>
    rw [instrAfter_none he, instrAfter_none ((instrError_withSound i s n c).trans he)]
    exact ⟨_, instrEffect_withSound i s n c⟩

theorem instrAfter_toneOn (i : Instr) (s : State) : (instrAfter i s).toneOn = s.toneOn := by
  cases he : instrError i s with
  | some e => rw [instrAfter_error he]; rfl
  | none => rw [instrAfter_none he]; cases i <;> rfl

/-- Settles O46: the tone level stays, so the two states after differ in the sound timer alone. -/
theorem soundTimerIsUnread : Obligations.SoundTimerIsUnread := by
  intro i s t n h
  obtain rfl := Host.Outcome.next.inj ((exec_eq i s).symm.trans h)
  obtain ⟨m, hm⟩ := instrAfter_withSound i s n s.toneOn
  refine ⟨_, exec_eq i (s.setST n), ?_⟩
  have hset : instrAfter i (s.setST n) = (instrAfter i s).withSound m s.toneOn := hm
  rw [hset, ← instrAfter_toneOn i s]
  rfl

/-! ### One step -/

/-- An instruction step reads no sound: PC, memory and key levels are the same, and so is the death it may take. -/
theorem State.instrStep_sound {s s' : State} (h : SoundAlone s s') :
    ∃ t t', s.instrStep = .next t ∧ s'.instrStep = .next t' ∧ SoundAlone t t' := by
  obtain ⟨n, c, rfl⟩ := h
  have hf : (s.withSound n c).fetch = s.fetch := State.fetch_congr rfl rfl
  have hraise (e : FatalError) : SoundAlone (s.raise e) ((s.withSound n c).raise e) := ⟨n, c, rfl⟩
  unfold State.instrStep
  rw [hf]
  cases s.fetch with
  | error e => exact ⟨_, _, rfl, rfl, hraise e⟩
  | ok w =>
    cases hd : decode w with
    | error r => exact ⟨_, _, by simp only [hd], by simp only [hd], hraise (.unknownOpcode w)⟩
    | ok i =>
      obtain ⟨m, hm⟩ := instrAfter_withSound i s.sampleKeys n c
      have hm' : instrAfter i (s.withSound n c).sampleKeys = (instrAfter i s.sampleKeys).withSound m c := hm
      have hst : ((instrAfter i s.sampleKeys).withSound m c).status = (instrAfter i s.sampleKeys).status := rfl
      simp only [hd, exec_eq, hm', State.settle, hst]
      cases (instrAfter i s.sampleKeys).status with
      | dead e => exact ⟨_, _, rfl, rfl, hraise e⟩
      | running => exact ⟨_, _, rfl, rfl, m, c, rfl⟩
      | awaitingKey x => exact ⟨_, _, rfl, rfl, m, c, rfl⟩

theorem SoundAlone.endFrame {s s' : State} (h : SoundAlone s s') : SoundAlone s.endFrame s'.endFrame := by
  have hst := h.status_eq
  obtain ⟨n, c, rfl⟩ := h
  cases hs : s.status with
  | running => rw [State.endFrame_running hs, State.endFrame_running (hst.trans hs)]; exact ⟨_, _, rfl⟩
  | awaitingKey x => rw [State.endFrame_waiting hs, State.endFrame_waiting (hst.trans hs)]; exact ⟨_, _, rfl⟩
  | dead e => rw [State.endFrame_dead hs, State.endFrame_dead (hst.trans hs)]; exact ⟨_, _, rfl⟩

theorem SoundAlone.setSlot {s s' : State} (h : SoundAlone s s') (k : Nat) :
    SoundAlone (s.setSlot k) (s'.setSlot k) := by
  obtain ⟨n, c, rfl⟩ := h; exact ⟨n, c, rfl⟩

theorem SoundAlone.closeSlot {s s' : State} (h : SoundAlone s s') : SoundAlone s.closeSlot s'.closeSlot := by
  have hst := h.status_eq
  have hslot := h.slot_eq
  cases hs : s.status with
  | running =>
    by_cases hk : s.slot + 1 < 10
    · rw [State.closeSlot_next hs hk, State.closeSlot_next (hst.trans hs) (by omega), hslot]
      exact h.setSlot _
    · rw [State.closeSlot_last hs (by omega), State.closeSlot_last (hst.trans hs) (by omega)]
      exact h.endFrame.setSlot 0
  | awaitingKey x =>
    rw [State.closeSlot_waiting hs, State.closeSlot_waiting (hst.trans hs)]
    exact h.endFrame.setSlot 0
  | dead e =>
    rw [State.closeSlot_dead hs, State.closeSlot_dead (hst.trans hs)]
    exact h

theorem SoundAlone.keyPress {s s' : State} (h : SoundAlone s s') (k : Key) :
    SoundAlone (s.keyPress k) (s'.keyPress k) := by
  obtain ⟨n, c, rfl⟩ := h
  have hst : (s.withSound n c).status = s.status := rfl
  unfold State.keyPress
  rw [hst]
  cases s.status <;> exact ⟨n, c, rfl⟩

theorem SoundAlone.waitStep {s s' : State} (h : SoundAlone s s') : SoundAlone s.waitStep s'.waitStep := by
  obtain ⟨n, c, rfl⟩ := h
  have hdraw : SoundAlone s.countDraw (s.withSound n c).countDraw := ⟨n, c, rfl⟩
  have hdraws : (s.withSound n c).draws = s.draws := rfl
  unfold State.waitStep
  rw [hdraws]
  cases Config.keyPress s.draws with
  | some k => exact hdraw.keyPress k
  | none => exact hdraw.endFrame

/-- Two states that differ in sound alone step alike, to states that differ in sound alone, or stop alike. -/
theorem step_sound {s s' : State} (h : SoundAlone s s') :
    (∃ t t', step s = .next t ∧ step s' = .next t' ∧ SoundAlone t t') ∨
      ∃ r, step s = .fault r ∧ step s' = .fault r := by
  have hst := h.status_eq
  cases hs : s.status with
  | running =>
    obtain ⟨t, t', ht, ht', hsound⟩ := State.instrStep_sound h
    exact .inl ⟨_, _, step_running hs ht, step_running (hst.trans hs) ht', hsound.closeSlot⟩
  | awaitingKey x => exact .inl ⟨_, _, step_waiting hs, step_waiting (hst.trans hs), h.waitStep⟩
  | dead e => exact .inr ⟨_, step_dead hs, step_dead (hst.trans hs)⟩

/-! ### Whole runs -/

/-- A run whose first step stops, stops. -/
theorem run_fault {s : State} {r : Fault} (k : Nat) (h : step s = .fault r) : core.run (k + 1) s = .fault r := by
  have h' : core.step s = .fault r := h
  simp only [Host.Core.run, h']

/-- Two states that differ in sound alone run alike. -/
theorem run_sound (k : Nat) {s s' : State} (h : SoundAlone s s') :
    (∃ t t', core.run k s = .next t ∧ core.run k s' = .next t' ∧ SoundAlone t t') ∨
      ∃ r, core.run k s = .fault r ∧ core.run k s' = .fault r := by
  induction k generalizing s s' with
  | zero => exact .inl ⟨s, s', rfl, rfl, h⟩
  | succ k ih =>
    rcases step_sound h with ⟨t, t', ht, ht', hsound⟩ | ⟨r, hr, hr'⟩
    · rw [run_succ k ht, run_succ k ht']
      exact ih hsound
    · exact .inr ⟨r, run_fault k hr, run_fault k hr'⟩

/-- Settles O59: the two runs of `run_sound`, by how the first ends. -/
theorem soundTimerReachesToneAlone : Obligations.SoundTimerReachesToneAlone := by
  intro k s n c
  have hsound : SoundAlone s { s with st := n, toneOn := c } := ⟨n, c, rfl⟩
  rcases run_sound k hsound with ⟨t, t', ht, ht', m, d, rfl⟩ | ⟨r, hr, hr'⟩
  · refine ⟨fun u hu => ?_, fun r hr => (nomatch ht.symm.trans hr)⟩
    obtain rfl := Host.Outcome.next.inj (ht.symm.trans hu)
    exact ⟨m, d, ht'⟩
  · refine ⟨fun u hu => (nomatch hr.symm.trans hu), fun r' hr2 => ?_⟩
    obtain rfl := Host.Outcome.fault.inj (hr.symm.trans hr2)
    exact hr'

end Sys2Proof.Machine
end

section
/-! PROOFS. Memory: the range check from `I` comes before every effect, and only two instructions write memory and two
the stack; and the spec's own words. -/

namespace Sys2Proof.Machine

/-! ### The range error -/

/-- An instruction that takes an error dies of it and changes nothing else (R176). -/
theorem exec_died {i : Instr} {s : State} {e : FatalError} (h : instrError i s = some e) :
    ∃ t, exec i s = .next t ∧ Died e s t :=
  ⟨s.raise e, (exec_eq i s).trans (congrArg _ (instrAfter_error h)), State.raise_died s e⟩

/-- An instruction whose error is that of the range of `len` bytes from `I` dies at the lowest address above 4095 when
the last of them passes 4095 (R57). -/
theorem exec_died_of_range {i : Instr} {s : State} {len : Nat} (hi : instrError i s = s.rangeError len)
    (h1 : 1 ≤ len) (h2 : s.idx.toNat + len - 1 > 4095) :
    ∃ t, exec i s = .next t ∧ Died (.memoryOutOfBounds (max s.idx.toNat 4096)) s t :=
  exec_died (hi.trans (State.rangeError_some h1 (by omega)))

/-- Settles O22: each of the four checks the range of its own length, 3, `x` or `n`, and takes no other error. -/
theorem rangeErrorTouchesNothing : Obligations.RangeErrorTouchesNothing := by
  intro s
  refine ⟨fun x h => ?_, fun x h1 h2 => ⟨?_, ?_⟩, fun x y n h1 h2 => ?_⟩
  · exact exec_died_of_range (len := 3) rfl (by decide) h
  · exact exec_died_of_range rfl h1 h2
  · exact exec_died_of_range rfl h1 h2
  · exact exec_died_of_range rfl h1 h2

/-! ### Who writes memory and the stack -/

/-- Settles O43: an error writes neither, and of the completed instructions only the two stores write memory and only
the call and the return write the stack. -/
theorem onlyStoresAndCallsWriteMemoryAndStack : Obligations.OnlyStoresAndCallsWriteMemoryAndStack := by
  intro i s t h
  rcases exec_next_cases h with ⟨e, -, rfl⟩ | ⟨-, rfl⟩
  · exact ⟨.inl rfl, .inl ⟨rfl, rfl⟩⟩
  cases i
  case ldB x => exact ⟨.inr ⟨x, .inl rfl⟩, .inl ⟨rfl, rfl⟩⟩
  case stRegs x => exact ⟨.inr ⟨x, .inr rfl⟩, .inl ⟨rfl, rfl⟩⟩
  case ret => exact ⟨.inl rfl, .inr (.inl rfl)⟩
  case call nnn => exact ⟨.inl rfl, .inr (.inr ⟨nnn, rfl⟩)⟩
  all_goals exact ⟨.inl rfl, .inl ⟨rfl, rfl⟩⟩

/-! ### The spec's own words -/

/-- Settles O51: the words are fixed, so the decoder is evaluated on each. -/
theorem specWordsDecode : Obligations.SpecWordsDecode := by
  unfold Obligations.SpecWordsDecode
  decide

end Sys2Proof.Machine
end

section
/-! PROOFS. Encoding: the decoder and the encoder undo each other, the words that decode to nothing, the opcode map;
and around the decoder the fetch, the step, and how an instruction can end. -/

namespace Sys2Proof

/-! ### Decoding what was encoded -/

-- The bounds of the operands, in the numerals of the laws about the fields.
theorem addr_lt (nnn : Addr) : nnn.toNat < 4096 := nnn.isLt

theorem byte_lt (kk : Byte) : kk.toNat < 256 := kk.isLt

theorem nibble_lt (n : Nibble) : n.toNat < 16 := n.isLt

/-- The decoder reads the family, then the selector where the family has one, then the operands: by the format of the
word (R74), each field comes back as it was put in. -/
theorem decode_encode (i : Instr) : decode (encode i) = .ok i := by
  cases i
  case cls | ret => decide
  case jp | call | ldI | jpV0 =>
    simp [encode, decode, famOf_wordOfAddr, nnnOf_wordOfAddr, addr_lt]
  case seByte | sneByte | ldByte | addByte | rnd =>
    simp [encode, decode, famOf_wordOfLowByte, xOf_wordOfLowByte, kkOf_wordOfLowByte, byte_lt]
  case seReg | sneReg | drw =>
    simp [encode, decode, famOf_wordOfNibbles, xOf_wordOfNibbles, yOf_wordOfNibbles, nOf_wordOfNibbles, nibble_lt]
  case ldReg | orReg | andReg | xorReg | addReg | sub | shr | subn | shl =>
    simp [encode, decode, decode8, famOf_wordOfNibbles, xOf_wordOfNibbles, yOf_wordOfNibbles, yBitsOf_wordOfNibbles,
      nOf_wordOfNibbles, nibble_lt]
  case skp | sknp =>
    simp [encode, decode, decodeE, famOf_wordOfLowByte, xOf_wordOfLowByte, kkOf_wordOfLowByte]
  case ldVxDT | ldVxK | ldDTVx | ldSTVx | addI | ldF | ldB | stRegs | ldRegs =>
    simp [encode, decode, decodeF, famOf_wordOfLowByte, xOf_wordOfLowByte, kkOf_wordOfLowByte]

theorem decodeBytes_of_decode {hi lo : Byte} {i : Instr} (h : decode (wordOfBytes hi lo) = .ok i)
    (rest : List Byte) : decodeBytes (hi :: lo :: rest) = .ok (i, rest) := by
  simp only [decodeBytes, h]

/-- Settles O47: the word by its format, the bytes because they make up that word (R50). -/
theorem decodeOfEncode : Obligations.DecodeOfEncode := by
  intro i
  have hword : decode (wordOfBytes (hiByte (encode i)) (loByte (encode i))) = .ok i := by
    rw [wordOfBytes_bytes, decode_encode]
  exact ⟨decode_encode i, decodeBytes_of_decode hword⟩

/-! ### Encoding what was decoded -/

section
variable {w : Word} {f : Nat}

/-- A word is its family and its `nnn` (R74). -/
theorem wordOfAddr_fields (hf : famOf w = f) : wordOfAddr f (nnnOf w).toNat = w := by
  subst hf
  apply BitVec.eq_of_toNat_eq
  rw [famOf_eq, nnnOf_toNat, wordOfAddr_toNat (by omega) (by omega)]; omega

/-- A word is its family, its `x` and its low byte (R74). -/
theorem wordOfLowByte_fields (hf : famOf w = f) {kk : Nat} (hk : (kkOf w).toNat = kk) :
    wordOfLowByte f (xOf w) kk = w := by
  subst hf hk
  apply BitVec.eq_of_toNat_eq
  rw [famOf_eq, xOf_val, kkOf_toNat, wordOfLowByte_toNat (by omega) (by omega) (by omega)]; omega

/-- A word is its four nibbles (R74). -/
theorem wordOfNibbles_fields (hf : famOf w = f) {n : Nat} (hn : (nOf w).toNat = n) :
    wordOfNibbles f (xOf w) (yOf w) n = w := by
  subst hf hn
  apply BitVec.eq_of_toNat_eq
  rw [famOf_eq, xOf_val, yOf_val, nOf_toNat, wordOfNibbles_toNat (by omega) (by omega) (by omega) (by omega)]; omega

/-- The same with `y` as an ignored field (R83). -/
theorem wordOfNibbles_ignored (hf : famOf w = f) {n : Nat} (hn : (nOf w).toNat = n) :
    wordOfNibbles f (xOf w) (yBitsOf w).toNat n = w := by
  rw [yBitsOf_toNat, ← yOf_val, wordOfNibbles_fields hf hn]

end

/-- The selector of the word is an unlisted one of family 0x0, 0x8, 0xE or 0xF (R77, R78, R79). -/
def Unlisted (w : Word) : Prop :=
  (w.toNat / 4096 = 0x0 ∧ w.toNat ≠ 0x00E0 ∧ w.toNat ≠ 0x00EE) ∨
  (w.toNat / 4096 = 0x8 ∧ w.toNat % 16 ∈ [0x8, 0x9, 0xA, 0xB, 0xC, 0xD, 0xF]) ∨
  (w.toNat / 4096 = 0xE ∧ w.toNat % 256 ∉ [0x9E, 0xA1]) ∨
  (w.toNat / 4096 = 0xF ∧ w.toNat % 256 ∉ [0x07, 0x0A, 0x15, 0x18, 0x1E, 0x29, 0x33, 0x55, 0x65])

/-- An answer the decoder may give for `w`: an instruction with that very word, or the rejection of an unlisted one. -/
def IsAnswer (w : Word) : Except Rejection Instr → Prop
  | .ok i => encode i = w
  | .error r => r = .unknownOpcode w ∧ Unlisted w

section
variable {w : Word}

theorem decode0_isAnswer (hf : famOf w = 0x0) : IsAnswer w (decode0 w) := by
  rw [famOf_eq] at hf
  unfold decode0
  split
  · next h => exact h.symm
  split
  · next h => exact h.symm
  next h1 h2 =>
    refine ⟨rfl, .inl ⟨hf, ?_, ?_⟩⟩
    · exact fun h => h1 (BitVec.eq_of_toNat_eq h)
    · exact fun h => h2 (BitVec.eq_of_toNat_eq h)

theorem decode8_isAnswer (hf : famOf w = 0x8) : IsAnswer w (decode8 w) := by
  unfold decode8
  split
  case h_7 hn | h_9 hn => exact wordOfNibbles_ignored hf hn
  case h_10 =>
    simp only [nOf_toNat, famOf_eq, imp_false] at *
    refine ⟨rfl, .inr (.inl ⟨hf, ?_⟩)⟩
    simp only [List.mem_cons, List.not_mem_nil, or_false]
    omega
  all_goals exact wordOfNibbles_fields hf ‹_›

theorem decodeE_isAnswer (hf : famOf w = 0xE) : IsAnswer w (decodeE w) := by
  unfold decodeE
  split
  case h_3 =>
    simp only [kkOf_toNat, famOf_eq, imp_false] at *
    refine ⟨rfl, .inr (.inr (.inl ⟨hf, ?_⟩))⟩
    simp only [List.mem_cons, List.not_mem_nil, or_false, not_or]
    omega
  all_goals exact wordOfLowByte_fields hf ‹_›

theorem decodeF_isAnswer (hf : famOf w = 0xF) : IsAnswer w (decodeF w) := by
  unfold decodeF
  split
  case h_10 =>
    simp only [kkOf_toNat, famOf_eq, imp_false] at *
    refine ⟨rfl, .inr (.inr (.inr ⟨hf, ?_⟩))⟩
    simp only [List.mem_cons, List.not_mem_nil, or_false, not_or]
    omega
  all_goals exact wordOfLowByte_fields hf ‹_›

end

/-- The decoder, said once: what it reads encodes back to the word, and what it rejects is unlisted (R76, R84). -/
theorem decode_isAnswer (w : Word) : IsAnswer w (decode w) := by
  unfold decode
  split
  case h_1 hf => exact decode0_isAnswer hf
  case h_2 hf | h_3 hf | h_11 hf | h_12 hf => exact wordOfAddr_fields hf
  case h_4 hf | h_5 hf | h_7 hf | h_8 hf | h_13 hf => exact wordOfLowByte_fields hf rfl
  case h_6 hf | h_10 hf | h_14 hf => exact wordOfNibbles_fields hf rfl
  case h_9 hf => exact decode8_isAnswer hf
  case h_15 hf => exact decodeE_isAnswer hf
  case h_16 =>
    have hlt : famOf w < 16 := BitVec.isLt _
    simp only [imp_false] at *
    exact decodeF_isAnswer (by omega)

theorem encode_of_decode {w : Word} {i : Instr} (h : decode w = .ok i) : encode i = w := by
  have hw := decode_isAnswer w
  rwa [h] at hw

theorem rejected_of_decode {w : Word} {r : Rejection} (h : decode w = .error r) :
    r = .unknownOpcode w ∧ Unlisted w := by
  have hw := decode_isAnswer w
  rwa [h] at hw

/-- Settles O48: an instruction read is an answer for its word. -/
theorem encodeOfDecode : Obligations.EncodeOfDecode := fun _ _ => encode_of_decode

/-! ### The rows of the opcode map -/

/-- An instruction's word matches the instruction's own row (R80). -/
theorem matchesRow_encode (i : Instr) : matchesRow (encode i) (rowOf i) = true := by
  cases i
  exacts [Laws.RowMatch.cls, Laws.RowMatch.ret, Laws.RowMatch.jp _, Laws.RowMatch.call _, Laws.RowMatch.seByte _ _,
    Laws.RowMatch.sneByte _ _, Laws.RowMatch.seReg _ _ _, Laws.RowMatch.ldByte _ _, Laws.RowMatch.addByte _ _,
    Laws.RowMatch.ldReg _ _, Laws.RowMatch.orReg _ _, Laws.RowMatch.andReg _ _, Laws.RowMatch.xorReg _ _,
    Laws.RowMatch.addReg _ _, Laws.RowMatch.sub _ _, Laws.RowMatch.shr _ _, Laws.RowMatch.subn _ _,
    Laws.RowMatch.shl _ _, Laws.RowMatch.sneReg _ _ _, Laws.RowMatch.ldI _, Laws.RowMatch.jpV0 _,
    Laws.RowMatch.rnd _ _, Laws.RowMatch.drw _ _ _, Laws.RowMatch.skp _, Laws.RowMatch.sknp _,
    Laws.RowMatch.ldVxDT _, Laws.RowMatch.ldVxK _, Laws.RowMatch.ldDTVx _, Laws.RowMatch.ldSTVx _,
    Laws.RowMatch.addI _, Laws.RowMatch.ldF _, Laws.RowMatch.ldB _, Laws.RowMatch.stRegs _, Laws.RowMatch.ldRegs _]

theorem matchesRow_of_decode {w : Word} {i : Instr} (h : decode w = .ok i) : matchesRow w (rowOf i) = true := by
  rw [← encode_of_decode h]
  exact matchesRow_encode i

theorem rowOf_mem (i : Instr) : rowOf i ∈ opcodeMap := by
  cases i <;> simp only [rowOf] <;> decide

/-- The two rows differ in a bit that both of them fix. -/
abbrev RowsApart (row row' : Word × Word) : Prop := row.2 &&& row'.1 ≠ row'.2 &&& row.1

theorem opcodeMap_pairwise_apart : opcodeMap.Pairwise RowsApart := by decide

/-- No word matches two rows. -/
theorem matchesRow_unique {w : Word} {row row' : Word × Word} (hm : row ∈ opcodeMap) (hm' : row' ∈ opcodeMap)
    (h : matchesRow w row = true) (h' : matchesRow w row' = true) : row = row' := by
  have hw : w &&& row.1 = row.2 := beq_iff_eq.1 h
  have hw' : w &&& row'.1 = row'.2 := beq_iff_eq.1 h'
  have hsymm : Std.Symm RowsApart := ⟨fun _ _ => Ne.symm⟩
  have hagree : row.2 &&& row'.1 = row'.2 &&& row.1 := by
    rw [← hw, ← hw', BitVec.and_assoc, BitVec.and_assoc, BitVec.and_comm row.1]
  by_contra hne
  exact opcodeMap_pairwise_apart.forall hm hm' hne hagree

/-- An unlisted word matches no row: a row's match gives the family and the selector, and in numbers (`and_F000` and
its like) none of the 34 is that of an unlisted word. -/
theorem Unlisted.not_matchesRow {w : Word} (h : Unlisted w) :
    ∀ row ∈ opcodeMap, ¬matchesRow w row = true := by
  simp only [Unlisted, List.mem_cons, List.not_mem_nil, or_false] at h
  simp only [opcodeMap, List.forall_mem_append, List.forall_mem_cons, List.not_mem_nil, false_imp_iff, implies_true,
    and_true, matchesRow_FFFF, matchesRow_F000, matchesRow_F00F, matchesRow_F0FF, decide_eq_true_eq]
  simp only [BitVec.reduceToNat]
  omega

/-- A word is either read or unlisted, not both (R84). -/
theorem decode_error_iff (w : Word) : decode w = .error (.unknownOpcode w) ↔ Unlisted w := by
  refine ⟨fun h => (rejected_of_decode h).2, fun h => ?_⟩
  cases hd : decode w with
  | error r => rw [(rejected_of_decode hd).1]
  | ok i => exact absurd (matchesRow_of_decode hd) (h.not_matchesRow _ (rowOf_mem i))

/-- Settles O49: `decode_error_iff` with `Unlisted` written out, and the one rejection. -/
theorem unknownWordsAreExactly : Obligations.UnknownWordsAreExactly :=
  fun w => ⟨decode_error_iff w, fun _ h => (rejected_of_decode h).1⟩

/-- Settles O50: a word matches its instruction's row, no word two rows, and an unlisted word none. -/
theorem opcodeMapPartitionsWords : Obligations.OpcodeMapPartitionsWords := by
  refine ⟨rfl, fun w i hd => ⟨rowOf_mem i, fun row hm => ⟨fun h => ?_, fun h => ?_⟩⟩, fun w row hm h => ?_⟩
  · exact matchesRow_unique hm (rowOf_mem i) h (matchesRow_of_decode hd)
  · exact h ▸ matchesRow_of_decode hd
  · cases hd : decode w with
    | ok i => exact ⟨i, rfl⟩
    | error r => exact absurd h ((rejected_of_decode hd).2.not_matchesRow row hm)

end Sys2Proof

namespace Sys2Proof.Machine

/-! ### How an instruction can end -/

theorem State.rangeError_eq_some {s : State} {len : Nat} {e : FatalError} (h : s.rangeError len = some e) :
    ∃ a, e = .memoryOutOfBounds a := by
  rcases State.rangeError_cases s len with ⟨hn, -⟩ | ⟨hs, -⟩
  · exact nomatch hn.symm.trans h
  · exact ⟨_, (Option.some.inj (hs.symm.trans h)).symm⟩

/-- A completed instruction is alive where it was alive before. -/
theorem instrEffect_alive (i : Instr) {s : State} (h : s.alive = true) : (instrEffect i s).alive = true := by
  rcases instrEffect_status i s with hst | ⟨x, hst⟩
  · simpa only [State.alive, hst] using h
  · simp only [State.alive, hst]

/-- Settles O36: a Dead core has died of the instruction's own error, since its effect kills nothing. -/
theorem execAlwaysAnswersNext : Obligations.ExecAlwaysAnswersNext := by
  intro i s
  refine ⟨_, exec_eq i s, fun ha e hdead => ?_⟩
  rcases exec_next_cases (exec_eq i s) with ⟨e', he, ht⟩ | ⟨-, ht⟩
  · obtain rfl : e' = e := Status.dead.inj ((congrArg State.status ht).symm.trans hdead)
    cases i
    case ret =>
      obtain ⟨-, rfl⟩ : s.sp.val = 0 ∧ FatalError.stackUnderflow = e' := by simpa [instrError] using he
      exact .inl ⟨rfl, rfl⟩
    case call nnn =>
      obtain ⟨-, rfl⟩ : s.sp.val = 16 ∧ FatalError.stackOverflow (s.pc + 2) = e' := by simpa [instrError] using he
      exact .inr (.inl ⟨⟨nnn, rfl⟩, _, rfl⟩)
    case ldB x => exact .inr (.inr ⟨State.rangeError_eq_some he, .inl ⟨x, .inl rfl⟩⟩)
    case stRegs x => exact .inr (.inr ⟨State.rangeError_eq_some he, .inl ⟨x, .inr (.inl rfl)⟩⟩)
    case ldRegs x => exact .inr (.inr ⟨State.rangeError_eq_some he, .inl ⟨x, .inr (.inr rfl)⟩⟩)
    case drw x y n => exact .inr (.inr ⟨State.rangeError_eq_some he, .inr ⟨x, y, n, rfl⟩⟩)
    all_goals exact nomatch he
  · have hlive := instrEffect_alive i ha
    rw [← ht] at hlive
    simp [State.alive, hdead] at hlive

/-! ### Fetch and step -/

/-- Settles O32: the two arms of `State.fetch_eq`, the second at 4095 and above it. -/
theorem fetchIsBigEndianAndBounded : Obligations.FetchIsBigEndianAndBounded := by
  intro s
  rw [State.fetch_eq]
  refine ⟨fun h => ⟨_, if_pos (by omega), wordOfBytes_toNat _ _⟩, fun h => ?_, fun h => ?_⟩
  · rw [if_neg (by omega), h]; rfl
  · rw [if_neg (by omega), Nat.max_eq_left h]

theorem State.instrStep_of_decode {s : State} {w : Word} {i : Instr} (hf : s.fetch = .ok w)
    (hd : decode w = .ok i) : s.instrStep = s.settle (exec i s.sampleKeys) := by
  simp only [State.instrStep, hf, hd]

/-- Settles O33: the instruction step settles alive or dead, and the slot of a dead core stays open. -/
theorem stepRunsDecodedInstruction : Obligations.StepRunsDecodedInstruction := by
  intro s t w i hrun hf hd hx
  have hstep : s.instrStep = s.settle (.next t) := by rw [State.instrStep_of_decode hf hd, hx]
  refine ⟨fun ha => ?_, fun e he => ?_⟩
  · rcases State.settle_next s t with ⟨e, he, -⟩ | ⟨-, hs⟩
    · simp [State.alive, he] at ha
    · exact step_running hrun (hstep.trans hs)
  · have hs : s.instrStep = .next (s.raise e) := by rw [hstep]; simp only [State.settle, he]
    rw [step_running hrun hs, State.closeSlot_dead (State.raise_status s e)]

end Sys2Proof.Machine
end

section
/-! PROOFS. Control flow: jumps and skips write PC alone, a call and a return move one entry of the stack, and a return
undoes its call. -/

namespace Sys2Proof.Machine

/-! ### Call and return -/

/-- 2nnn with room on the stack is the push and the jump (R102). -/
theorem exec_call_of_room {s : State} (nnn : Addr) (h : s.sp.val < 16) :
    exec (.call nnn) s =
      .next ((s.setStack (s.stk.set s.sp.val (s.pc + 2) h) ⟨s.sp.val + 1, by omega⟩).setPC (zext16OfAddr nnn)) := by
  rcases execCall_cases s nnn with ⟨hfull, -⟩ | ⟨_, hx⟩
  · omega
  · exact hx

/-- 00EE with entry `j` on top is the pop of that entry (R104). -/
theorem exec_ret_of_top {s : State} {j : Fin 16} (h : s.sp.val = j.val + 1) :
    exec .ret s = .next ((s.setStack s.stk j.castSucc).setPC s.stk[j]) := by
  rcases execRet_cases s with ⟨hempty, -⟩ | ⟨_, hx⟩
  · omega
  · have hj : s.sp.val - 1 = j.val := by omega
    simp only [hj] at hx
    exact hx

/-- Settles O2: the push where there is room, the instruction's own error on a full stack. -/
theorem callPushesReturnAddress : Obligations.CallPushesReturnAddress := by
  intro nnn s
  refine ⟨fun h => ⟨_, exec_call_of_room nnn h, zext16OfAddr_toNat nnn, rfl, fun j => ?_, rfl, fun _ => rfl⟩,
    fun h => exec_died (if_pos h)⟩
  simp only [State.setPC_stk, State.setStack_stk, Fin.getElem_fin, Vector.getElem_set, eq_comm]

/-- Settles O3: the pop where an entry is in use, the instruction's own error on an empty stack. -/
theorem returnPopsStack : Obligations.ReturnPopsStack :=
  fun _ => ⟨fun _ h => ⟨_, exec_ret_of_top h, rfl, rfl, rfl, fun _ => rfl⟩, fun h => exec_died (if_pos h)⟩

/-- Settles O4: the return pops the place the call pushed to, and neither writes an entry below it. -/
theorem callThenReturnResumes : Obligations.CallThenReturnResumes := by
  intro nnn s t u hroom hcall hsp hused
  obtain ⟨t', ht', -, htsp, hpush, -⟩ := (callPushesReturnAddress nnn s).1 hroom
  obtain rfl : t' = t := Host.Outcome.next.inj (ht'.symm.trans hcall)
  obtain ⟨top, htop⟩ : ∃ j : Fin 16, j.val = s.sp.val := ⟨⟨_, hroom⟩, rfl⟩
  obtain ⟨w, hw, hpc, hwsp, hframe, -⟩ := (returnPopsStack u).1 top (by rw [hsp, htsp, htop])
  have hstk : w.stk = u.stk := (congrArg State.stk hframe :)
  refine ⟨w, hw, ?_, Fin.ext (hwsp.trans htop), fun j hj => ?_⟩
  · rw [hpc, hused top (by omega), hpush top, if_pos htop]
  · rw [hstk, hused j (by omega), hpush j, if_neg (by omega)]

/-! ### Jumps -/

theorem State.setPC_onlyPc (s : State) (w : Word) : OnlyPc s (s.setPC w) := ⟨rfl, fun _ => rfl⟩

/-- Settles O1: the target is below 4096, so the fetch after it fails at 4095 alone. -/
theorem jumpSetsPc : Obligations.JumpSetsPc := by
  intro nnn s
  have hpc : (s.setPC (zext16OfAddr nnn)).pc.toNat = nnn.toNat := zext16OfAddr_toNat nnn
  refine ⟨_, exec_eq (.jp nnn) s, hpc, State.setPC_onlyPc s _, fun h => ?_, fun h => ?_⟩
  all_goals rw [instrAfter_none rfl, instrEffect, State.fetch_eq, hpc]
  · rw [if_pos h]; rfl
  · rw [if_neg (by omega), h]; rfl

/-- Settles O5: the target is that of R24's table, and `State.fetch_eq` fails above 4094. -/
theorem jumpV0AddsOffset : Obligations.JumpV0AddsOffset := by
  intro nnn s
  have hpc : (instrEffect (.jpV0 nnn) s).pc.toNat = nnn.toNat + (s.readV 0).toNat := instrEffect_pc rfl
  refine ⟨_, exec_eq (.jpV0 nnn) s, hpc, State.setPC_onlyPc s _, fun h => ?_⟩
  rw [instrAfter_none rfl, State.fetch_eq, hpc, if_neg (by omega)]

/-! ### Skips -/

/-- An instruction that is a skip on `p` goes to a + 4 or a + 2 and changes nothing else (R100). -/
theorem exec_skip_of_iff {i : Instr} {s : State} {c : Bool} {p : Prop} [Decidable p]
    (hx : exec i s = .next (s.skipIf c)) (hc : c = decide p) :
    ∃ t, exec i s = .next t ∧ OnlyPc s t ∧ t.pc.toNat = (s.pc.toNat + if p then 4 else 2) % 65536 := by
  refine ⟨_, hx, State.setPC_onlyPc s _, ?_⟩
  rw [State.skipIf_pc_toNat, hc]
  by_cases hp : p <;> simp [hp]

/-- The same of a skip on the opposite condition. -/
theorem exec_skip_of_not {i : Instr} {s : State} {c : Bool} {p : Prop} [Decidable p]
    (hx : exec i s = .next (s.skipIf c)) (hc : c = decide (¬p)) :
    ∃ t, exec i s = .next t ∧ OnlyPc s t ∧ t.pc.toNat = (s.pc.toNat + if p then 2 else 4) % 65536 := by
  simpa only [ite_not] using exec_skip_of_iff hx hc

/-- Settles O6: the skips on `V[x] = kk` and on its opposite. -/
theorem skipOnByteCompare : Obligations.SkipOnByteCompare :=
  fun x kk s => ⟨exec_skip_of_iff (exec_eq (.seByte x kk) s) (byte_beq_eq _ _),
    exec_skip_of_not (exec_eq (.sneByte x kk) s) (byte_bne_eq _ _)⟩

/-- Settles O7: the skips on `V[x] = V[y]` and on its opposite; no arm reads the ignored nibble. -/
theorem skipOnRegisterCompare : Obligations.SkipOnRegisterCompare :=
  fun x y ign s => ⟨exec_skip_of_iff (exec_eq (.seReg x y ign) s) (byte_beq_eq _ _),
    exec_skip_of_not (exec_eq (.sneReg x y ign) s) (byte_bne_eq _ _)⟩

end Sys2Proof.Machine
end

section
/-! PROOFS. Registers and ALU: a result goes to `V[x]` and, for a flag writer, a flag to VF before it; what each
instruction computes, in numbers or bit by bit. -/

namespace Sys2Proof.Machine

/-! ### A result in a register -/

theorem State.result_readV_same (s : State) (x : Reg) (b : Byte) : (s.result x b).readV x = b :=
  (State.result_readV ..).trans (if_pos rfl)

/-- A result changes PC and its destination alone (R71, R37). -/
theorem State.result_onlyPcAndRegs (s : State) (x : Reg) (b : Byte) : OnlyPcAndRegs [x] s (s.result x b) := by
  refine ⟨rfl, fun r hr => ?_, fun _ => rfl⟩
  rw [State.result_readV, if_neg (List.ne_of_not_mem_cons hr)]

/-- An instruction that is a result: its value and its frame. -/
theorem exec_result {i : Instr} {s : State} {x : Reg} {b : Byte} (hx : exec i s = .next (s.result x b)) :
    ∃ t, exec i s = .next t ∧ t.readV x = b ∧ t.pc = s.pc + 2 ∧ OnlyPcAndRegs [x] s t :=
  ⟨_, hx, State.result_readV_same .., rfl, State.result_onlyPcAndRegs ..⟩

/-- The same with the value bit by bit. -/
theorem exec_result_bits {i : Instr} {s : State} {x : Reg} {b : Byte} {bit : Nat → Bool}
    (hx : exec i s = .next (s.result x b)) (hb : ∀ k, b.getLsbD k = bit k) :
    ∃ t, exec i s = .next t ∧ t.pc = s.pc + 2 ∧ OnlyPcAndRegs [x] s t ∧
      ∀ k, k < 8 → (t.readV x).getLsbD k = bit k := by
  obtain ⟨t, ht, rfl, hpc, hframe⟩ := exec_result hx
  exact ⟨t, ht, hpc, hframe, fun k _ => hb k⟩

/-- Settles O8: the byte itself, and the sum of two bytes modulo 256. -/
theorem loadAndAddByte : Obligations.LoadAndAddByte := by
  intro x kk s
  refine ⟨exec_result (exec_eq (.ldByte x kk) s), ?_⟩
  obtain ⟨t, ht, hv, hframe⟩ := exec_result (exec_eq (.addByte x kk) s)
  have hsum : (t.readV x).toNat = ((s.readV x).toNat + kk.toNat) % 256 := by rw [hv]; exact BitVec.toNat_add ..
  exact ⟨t, ht, hsum, hframe⟩

/-- Settles O9: a copy is a result, and each logic operation acts on every bit by itself. -/
theorem copyAndBitwise : Obligations.CopyAndBitwise :=
  fun x y s => ⟨exec_result (exec_eq (.ldReg x y) s),
    exec_result_bits (exec_eq (.orReg x y) s) fun _ => BitVec.getLsbD_or,
    exec_result_bits (exec_eq (.andReg x y) s) fun _ => BitVec.getLsbD_and,
    exec_result_bits (exec_eq (.xorReg x y) s) fun _ => BitVec.getLsbD_xor⟩

/-- Settles O13: Cxkk is a result in the state with the draw counted, and a mask of zero leaves no bit. -/
theorem randomByteIsMasked : Obligations.RandomByteIsMasked := by
  intro x kk s
  refine ⟨s.countDraw.result x (Config.randByte s.draws &&& kk), exec_eq (.rnd x kk) s, fun k _ => ?bits,
    fun hkk => ?zero, rfl, rfl, rfl, fun r hr => ?others, fun _ => rfl⟩
  case bits => rw [State.result_readV_same, BitVec.getLsbD_and]
  case zero => rw [State.result_readV_same, hkk]; exact BitVec.and_zero
  case others => exact (State.result_readV ..).trans (if_neg hr)

/-! ### A result and a flag -/

theorem State.flaggedResult_readV_same (s : State) (x : Reg) (f b : Byte) : (s.flaggedResult x f b).readV x = b :=
  (State.flaggedResult_readV ..).trans (if_pos rfl)

/-- The flag stands where the result does not overwrite it (R120). -/
theorem State.flaggedResult_readV_VF (s : State) {x : Reg} (f b : Byte) (hx : x ≠ VF) :
    (s.flaggedResult x f b).readV VF = f := by
  rw [State.flaggedResult_readV, if_neg hx.symm, if_pos rfl]

/-- A flagged result changes PC, its destination and VF alone (R71, R37). -/
theorem State.flaggedResult_onlyPcAndRegs (s : State) (x : Reg) (f b : Byte) :
    OnlyPcAndRegs [x, VF] s (s.flaggedResult x f b) := by
  refine ⟨rfl, fun r hr => ?_, fun _ => rfl⟩
  obtain ⟨hx, hf⟩ : r ≠ x ∧ r ≠ VF := by simpa using hr
  rw [State.flaggedResult_readV, if_neg hx, if_neg hf]

/-- An instruction that is a flagged result: its value and its flag as numbers, and its frame. -/
theorem exec_flaggedResult {i : Instr} {s : State} {x : Reg} {f b : Byte} {n flag : Nat}
    (hx : exec i s = .next (s.flaggedResult x f b)) (hb : b.toNat = n) (hf : f.toNat = flag) :
    ∃ t, exec i s = .next t ∧ (t.readV x).toNat = n ∧ (x ≠ VF → (t.readV VF).toNat = flag) ∧
      t.pc = s.pc + 2 ∧ OnlyPcAndRegs [x, VF] s t := by
  refine ⟨_, hx, ?value, fun hne => ?flag, rfl, State.flaggedResult_onlyPcAndRegs ..⟩
  case value => rw [State.flaggedResult_readV_same, hb]
  case flag => rw [State.flaggedResult_readV_VF s f b hne, hf]

/-! ### Flags and values in numbers -/

theorem carryFlag_toNat (a b : Byte) : (carryFlag a b).toNat = if a.toNat + b.toNat > 255 then 1 else 0 := by
  simp only [carryFlag, flagOf_toNat, decide_eq_true_eq]

theorem greaterFlag_toNat (a b : Byte) : (greaterFlag a b).toNat = if a.toNat > b.toNat then 1 else 0 := by
  simp only [greaterFlag, flagOf_toNat, decide_eq_true_eq]

/-- Bit 0 of a byte is its remainder modulo 2. -/
theorem lowBitFlag_toNat (a : Byte) : (lowBitFlag a).toNat = a.toNat % 2 := by
  have hbit : a.getLsbD 0 = decide (a.toNat % 2 = 1) := Nat.testBit_zero ..
  simp only [lowBitFlag, flagOf_toNat, hbit, decide_eq_true_eq]
  split <;> omega

/-- Bit 7 of a byte is its quotient by 128. -/
theorem highBitFlag_toNat (a : Byte) : (highBitFlag a).toNat = a.toNat / 128 := by
  have hbit : a.getLsbD 7 = decide (a.toNat / 128 % 2 = 1) := Nat.testBit_eq_decide_div_mod_eq ..
  simp only [highBitFlag, flagOf_toNat, hbit, decide_eq_true_eq]
  split <;> omega

/-- The difference modulo 256 is that of the minuend with 256 borrowed. -/
theorem byte_sub_toNat (a b : Byte) : (a - b).toNat = (a.toNat + 256 - b.toNat) % 256 := by
  rw [BitVec.toNat_sub]
  omega

theorem byte_shiftRight_one_toNat (a : Byte) : (a >>> 1).toNat = a.toNat / 2 := by
  rw [BitVec.toNat_ushiftRight, Nat.shiftRight_one]

theorem byte_shiftLeft_one_toNat (a : Byte) : (a <<< 1).toNat = a.toNat * 2 % 256 := by
  rw [BitVec.toNat_shiftLeft, Nat.shiftLeft_eq, Nat.pow_one]

/-! ### The flag writers -/

/-- Settles O10: the sum modulo 256 and the carry. -/
theorem addCarriesIntoVF : Obligations.AddCarriesIntoVF :=
  fun x y s => exec_flaggedResult (exec_eq (.addReg x y) s) (BitVec.toNat_add ..) (carryFlag_toNat ..)

/-- Settles O11: one difference and one flag, with the operands in either order. -/
theorem subtractSetsVFWhenGreater : Obligations.SubtractSetsVFWhenGreater :=
  fun x y s => ⟨exec_flaggedResult (exec_eq (.sub x y) s) (byte_sub_toNat ..) (greaterFlag_toNat ..),
    exec_flaggedResult (exec_eq (.subn x y) s) (byte_sub_toNat ..) (greaterFlag_toNat ..)⟩

/-- Settles O12: the halved and the doubled value with the bit shifted out; no arm reads the ignored field. -/
theorem shiftMovesOneBit : Obligations.ShiftMovesOneBit :=
  fun x ign s => ⟨exec_flaggedResult (exec_eq (.shr x ign) s) (byte_shiftRight_one_toNat _) (lowBitFlag_toNat _),
    exec_flaggedResult (exec_eq (.shl x ign) s) (byte_shiftLeft_one_toNat _) (highBitFlag_toNat _)⟩

end Sys2Proof.Machine
end

section
/-! PROOFS. The index register and memory: what is written to `I`, bytes stored from `I` and read back, registers loaded
from `I`, and a load after a store. -/

namespace Sys2Proof.Machine

/-! ### Writing the index register -/

/-- An instruction that is a write of `I`: its value as a number, and its frame (R140). -/
theorem exec_setI {i : Instr} {s : State} {w : Word} {n : Nat} (hx : exec i s = .next (s.setI w).advance)
    (hw : w.toNat = n) : ∃ t, exec i s = .next t ∧ t.idx.toNat = n ∧ t.pc = s.pc + 2 ∧ OnlyPcAndI s t :=
  ⟨_, hx, hw, rfl, rfl, fun _ => rfl⟩

/-- Settles O17: the address itself, and the glyph address of the whole byte. -/
theorem loadIndex : Obligations.LoadIndex :=
  ⟨fun nnn s => exec_setI (exec_eq (.ldI nnn) s) (zext16OfAddr_toNat nnn),
    fun x s => exec_setI (exec_eq (.ldF x) s) (glyphAddr_toNat _)⟩

/-- Settles O18: the sum of two words wraps at 65536, and the widened byte keeps its value. -/
theorem addIndexWraps : Obligations.AddIndexWraps := by
  intro x s
  refine exec_setI (exec_eq (.addI x) s) ?_
  rw [BitVec.toNat_add, zext16OfByte_toNat]

/-! ### Bytes stored from `I` -/

/-- An instruction whose error is that of the range of `len` bytes from `I` completes when the last of them does not
pass 4095 (R57). -/
theorem exec_of_range {i : Instr} {s : State} {len : Nat} (hi : instrError i s = s.rangeError len)
    (h : len = 0 ∨ s.idx.toNat + len - 1 ≤ 4095) : exec i s = .next (instrEffect i s) :=
  (exec_eq i s).trans (congrArg _ (instrAfter_none (hi.trans (State.rangeError_none (by omega)))))

/-- An instruction that is a store from `I`: the bytes stored, and its frame (R51, R140). -/
theorem exec_store {i : Instr} {s : State} {bs : List Byte}
    (hx : exec i s = .next (s.setMem (s.mem.writeBytes s.idx.toNat bs)).advance) :
    ∃ t, exec i s = .next t ∧ (∀ k, k < bs.length → t.readByte (s.idx.toNat + k) = bs.getD k 0) ∧
      t.pc = s.pc + 2 ∧ OnlyPcAndBytes s.idx.toNat bs.length s t := by
  refine ⟨_, hx, fun k hk => ?stored, rfl, rfl, fun a ha => ?others⟩
  case stored =>
    rw [State.advance_readByte, State.setMem_readByte, Memory.read_writeBytes, if_pos (by omega),
      Nat.add_sub_cancel_left]
  case others =>
    rw [State.advance_readByte, State.setMem_readByte, Memory.read_writeBytes, if_neg ha]
    rfl

/-- The three digits of a byte, each as a number (R144). -/
theorem bcdDigits_toNat (b : Byte) : ((bcdDigits b).getD 0 0).toNat = b.toNat / 100 ∧
    ((bcdDigits b).getD 1 0).toNat = b.toNat % 100 / 10 ∧ ((bcdDigits b).getD 2 0).toNat = b.toNat % 10 := by
  have hb := b.isLt
  refine ⟨?_, ?_, ?_⟩ <;> exact (BitVec.toNat_ofNat ..).trans (Nat.mod_eq_of_lt (by omega))

/-- Settles O19: the bytes stored are the three digits. -/
theorem storeDigits : Obligations.StoreDigits := by
  intro x s h
  obtain ⟨t, ht, hbytes, hframe⟩ := exec_store (exec_of_range (i := .ldB x) (s := s) (len := 3) rfl (.inr (by omega)))
  simp only [bcdDigits_length] at hbytes hframe
  obtain ⟨hundreds, tens, ones⟩ := bcdDigits_toNat (s.readV x)
  refine ⟨t, ht, ?_, ?_, ?_, hframe⟩
  · exact (congrArg _ (hbytes 0 (by decide))).trans hundreds
  · exact (congrArg _ (hbytes 1 (by decide))).trans tens
  · exact (congrArg _ (hbytes 2 (by decide))).trans ones

/-- Settles O20: the bytes stored are the registers below `x`, one byte for each. -/
theorem storeRegsExcludesX : Obligations.StoreRegsExcludesX := by
  intro x s h
  obtain ⟨t, ht, hbytes, hframe⟩ := exec_store (exec_of_range (i := .stRegs x) rfl h)
  rw [State.firstRegs_length] at hbytes hframe
  exact ⟨t, ht, fun j hj => (hbytes j hj).trans (State.firstRegs_getD s x j hj 0), hframe⟩

/-! ### Registers loaded from `I` -/

/-- A write of the register file changes PC and the registers alone (R71). -/
theorem State.setV_advance_frame (s : State) (w : Vector Byte 16) :
    { (s.setV w).advance with pc := s.pc, v := s.v } = s ∧ ∀ a, (s.setV w).advance.readByte a = s.readByte a :=
  ⟨rfl, fun _ => rfl⟩

/-- An instruction that is a load of the first registers: the bytes loaded, and its frame (R147). -/
theorem exec_load {i : Instr} {s : State} {bs : List Byte}
    (hx : exec i s = .next (s.writeFirstRegs bs).advance) :
    ∃ t, exec i s = .next t ∧ (∀ j : Reg, t.readV j = bs.getD j.val (s.readV j)) ∧ t.pc = s.pc + 2 ∧
      { t with pc := s.pc, v := s.v } = s ∧ ∀ a, t.readByte a = s.readByte a := by
  refine ⟨_, hx, fun j => ?loaded, ?pc, ?frame⟩
  case loaded => rw [State.advance_readV, State.writeFirstRegs_readV]
  case pc => rw [State.advance_pc, State.writeFirstRegs_pc]
  case frame => rw [State.writeFirstRegs]; exact State.setV_advance_frame s _

theorem getD_map_range (f : Nat → Byte) (len j : Nat) (d : Byte) :
    ((List.range len).map f).getD j d = if j < len then f j else d := by
  rw [List.getD_eq_getElem?_getD, List.getElem?_map]
  split
  case isTrue h => rw [List.getElem?_range h]; rfl
  case isFalse h => rw [List.getElem?_eq_none (by simpa using h)]; rfl

/-- Settles O21: a register is loaded where it is below `x`, and is its own otherwise. -/
theorem loadRegsExcludesX : Obligations.LoadRegsExcludesX := by
  intro x s h
  obtain ⟨t, ht, hv, hframe⟩ := exec_load (exec_of_range (i := .ldRegs x) rfl h)
  simp only [getD_map_range] at hv
  exact ⟨t, ht, fun j hj => (hv j).trans (if_pos hj), fun j hj => (hv j).trans (if_neg (Nat.not_lt.2 hj)), hframe⟩

/-! ### A load after a store -/

/-- Settles O23: the load reads where the store wrote, since the store keeps `I`. -/
theorem storeThenLoadRestores : Obligations.StoreThenLoadRestores := by
  intro x s t u hrange hstore hidx hmem
  obtain ⟨t', ht', hstored, -, hframe, -⟩ := storeRegsExcludesX x s hrange
  obtain rfl : t' = t := Host.Outcome.next.inj (ht'.symm.trans hstore)
  have hkept : u.idx = s.idx := hidx.trans (congrArg State.idx hframe :)
  obtain ⟨w, hw, hloaded, hothers, -⟩ := loadRegsExcludesX x u (by rwa [hkept])
  refine ⟨w, hw, fun j hj => ?_, hothers x le_rfl⟩
  calc w.readV j = u.readByte (u.idx.toNat + j.val) := hloaded j hj
    _ = t'.readByte (s.idx.toNat + j.val) := by rw [hmem, hkept]
    _ = s.readV j := hstored j hj

end Sys2Proof.Machine
end

section
/-! PROOFS. The display: 00E0 and Dxyn, the second draw of a sprite at its place, and who writes the display and the
status. -/

namespace Sys2Proof.Machine

/-! ### Who writes the display and the status -/

/-- Settles O45: an error writes `status` alone, and of the completed instructions only 00E0 and Dxyn write the display
and only Fx0A the status. -/
theorem onlyTheirInstructionsWriteDisplayAndStatus : Obligations.OnlyTheirInstructionsWriteDisplayAndStatus := by
  intro i s t h
  rcases exec_next_cases h with ⟨e, -, rfl⟩ | ⟨-, rfl⟩
  · exact ⟨.inl rfl, .inr (.inl rfl), rfl, rfl, rfl, rfl⟩
  cases i
  case cls => exact ⟨.inr (.inl rfl), .inl rfl, rfl, rfl, rfl, rfl⟩
  case drw x y n => exact ⟨.inr (.inr ⟨x, y, n, rfl⟩), .inl rfl, rfl, rfl, rfl, rfl⟩
  case ldVxK x => exact ⟨.inl rfl, .inr (.inr ⟨x, rfl⟩), rfl, rfl, rfl, rfl⟩
  case ldRegs x => simp [instrEffect]
  all_goals exact ⟨.inl rfl, .inl rfl, rfl, rfl, rfl, rfl⟩

/-! ### The grid by its pixels -/

/-- Two states that agree in every pixel have the same grid (R31). -/
theorem State.fb_eq_of_pixel {s t : State} (h : ∀ (r : Fin 32) (c : Fin 64), s.pixel r c = t.pixel r c) :
    s.fb = t.fb :=
  Vector.ext fun r hr => BitVec.eq_of_getLsbD_eq fun c hc => h ⟨r, hr⟩ ⟨c, hc⟩

theorem clearGrid_pixel (r : Fin 32) (c : Fin 64) : clearGrid[r].getLsbD c = false := by simp [clearGrid]

/-- Settles O24: the grid written is clear. -/
theorem clearDisplay : Obligations.ClearDisplay :=
  fun s => ⟨_, exec_eq .cls s, clearGrid_pixel, rfl, rfl, fun _ => rfl⟩

/-! ### One draw -/

/-- The sprite of Dxyn in the state `s` has a set bit over the pixel at row `r`, column `c` (R150, R152). -/
def spriteOver (s : State) (x y : Reg) (n : Nibble) (r : Fin 32) (c : Fin 64) : Bool :=
  spriteBit (fun k => s.readByte (s.idx.toNat + k)) (s.readV x).toNat (s.readV y).toNat n.toNat r c

/-- A completed Dxyn toggles the pixels under the sprite's set bits (R153). -/
theorem instrEffect_drw_pixel (s : State) (x y : Reg) (n : Nibble) (r : Fin 32) (c : Fin 64) :
    (instrEffect (.drw x y n) s).pixel r c = (s.pixel r c != spriteOver s x y n r c) :=
  (drawn_spec s x y n).1 r c

/-- A completed Dxyn leaves the flag of its collision in VF (R153). -/
theorem instrEffect_drw_readV_VF (s : State) (x y : Reg) (n : Nibble) :
    (instrEffect (.drw x y n) s).readV VF = flagOf (drawn s x y n).2 := State.result_readV_same ..

theorem flagOf_eq_one_iff (c : Bool) : flagOf c = 1 ↔ c = true := by cases c <;> decide

/-- That flag is 1 exactly when some pixel under a set bit was set (R153). -/
theorem instrEffect_drw_collision (s : State) (x y : Reg) (n : Nibble) :
    (instrEffect (.drw x y n) s).readV VF = 1 ↔
      ∃ (r : Fin 32) (c : Fin 64), s.pixel r c = true ∧ spriteOver s x y n r c = true := by
  rw [instrEffect_drw_readV_VF, flagOf_eq_one_iff, (drawn_spec s x y n).2]
  simp only [and_comm, spriteOver]

/-- Settles O25: the pixels and the collision of a completed draw, and the frame of a result in VF. -/
theorem drawTogglesAndDetects : Obligations.DrawTogglesAndDetects := by
  intro x y n s hrange
  refine ⟨_, exec_of_range rfl hrange, instrEffect_drw_pixel s x y n, ?flag, instrEffect_drw_collision s x y n,
    rfl, rfl, fun r hr => ?others, fun _ => rfl⟩
  case flag => rw [instrEffect_drw_readV_VF]; exact flagOf_eq_zero_or_one _
  case others => exact (State.result_readV ..).trans (if_neg hr)

/-! ### The second draw -/

/-- A draw whose coordinates are not in VF leaves the sprite and its place as they are: I, the bytes and the two
registers (R153). -/
theorem spriteOver_instrEffect_drw (s : State) {x y : Reg} (n : Nibble) (hx : x ≠ VF) (hy : y ≠ VF) :
    spriteOver (instrEffect (.drw x y n) s) x y n = spriteOver s x y n := by
  have hreg (r : Reg) (hr : r ≠ VF) : (instrEffect (.drw x y n) s).readV r = s.readV r :=
    (State.result_readV ..).trans (if_neg hr)
  funext r c
  simp only [spriteOver, hreg x hx, hreg y hy]
  rfl

/-- A sprite of at most 32 rows lies over some pixel exactly when it has a set bit: row `dr`, column `dc` of it lies
over the pixel at that offset from its left top, around the edges (R150, R152). -/
theorem exists_spriteBit_iff (rowByte : Nat → Byte) (vx vy : Nat) {n : Nat} (hn : n ≤ 32) :
    (∃ (r : Fin 32) (c : Fin 64), spriteBit rowByte vx vy n r c = true) ↔
      ∃ dr dc, dr < n ∧ dc < 8 ∧ (rowByte dr).getLsbD (7 - dc) = true := by
  simp only [spriteBit, Bool.and_eq_true, decide_eq_true_eq]
  constructor
  · rintro ⟨r, c, ⟨hdr, hdc⟩, hb⟩
    exact ⟨_, _, hdr, hdc, hb⟩
  · rintro ⟨dr, dc, hdr, hdc, hb⟩
    have hr : ((vy + dr) % 32 + 32 - vy % 32) % 32 = dr := by omega
    have hc : ((vx + dc) % 64 + 64 - vx % 64) % 64 = dc := by omega
    refine ⟨⟨(vy + dr) % 32, by omega⟩, ⟨(vx + dc) % 64, by omega⟩, ?_⟩
    simp only [hr, hc]
    exact ⟨⟨hdr, hdc⟩, hb⟩

/-- The second draw toggles the same pixels back (R153). -/
theorem drw_twice_fb (s : State) {x y : Reg} (n : Nibble) (hx : x ≠ VF) (hy : y ≠ VF) :
    (instrEffect (.drw x y n) (instrEffect (.drw x y n) s)).fb = s.fb := by
  refine State.fb_eq_of_pixel fun r c => ?_
  rw [instrEffect_drw_pixel, instrEffect_drw_pixel, spriteOver_instrEffect_drw s n hx hy, Bool.bne_assoc,
    bne_self_eq_false, Bool.bne_false]

/-- The second draw finds a set pixel under a set bit exactly where the first found a clear one (R153). -/
theorem drw_twice_collision (s : State) {x y : Reg} (n : Nibble) (hx : x ≠ VF) (hy : y ≠ VF) :
    (instrEffect (.drw x y n) (instrEffect (.drw x y n) s)).readV VF = 1 ↔
      ∃ r c, spriteOver s x y n r c = true ∧ s.pixel r c = false := by
  rw [instrEffect_drw_collision, spriteOver_instrEffect_drw s n hx hy]
  refine exists_congr fun r => exists_congr fun c => ?_
  rw [instrEffect_drw_pixel, and_comm]
  exact and_congr_right fun hover => by simp [hover]

/-- Settles O26: the second draw in the state of the first; where every pixel under the sprite was clear, its collision
says that the sprite lies over some pixel, so that it has a set bit. -/
theorem drawTwiceRestores : Obligations.DrawTwiceRestores := by
  intro x y n s t hx hy hrange hdraw bit
  obtain rfl : instrEffect (.drw x y n) s = t := Host.Outcome.next.inj ((exec_of_range rfl hrange).symm.trans hdraw)
  have hcollision := drw_twice_collision s n hx hy
  refine ⟨_, exec_of_range rfl hrange, drw_twice_fb s n hx hy, hcollision, fun hclear => hcollision.trans ?_⟩
  rw [← exists_spriteBit_iff _ (s.readV x).toNat (s.readV y).toNat (by omega)]
  exact exists_congr fun r => exists_congr fun c => and_iff_left_of_imp (hclear r c)

end Sys2Proof.Machine
end

section
/-! PROOFS. Keypad and timers: the skips on a key, the key wait and its two events, the moves of the timer registers,
and that the events outside the step keep the invariant. -/

namespace Sys2Proof.Machine

/-! ### Skips on a key -/

/-- A byte that is the code of a key reads that key's level (R160). -/
theorem State.keyHeld_of_code (s : State) {b : Byte} {k : Key} (h : b.toNat = k.val) :
    s.keyHeld b = s.key.getLsbD k.val := by
  have hk : k.val ≤ 15 := Nat.le_of_lt_succ k.isLt
  rw [State.keyHeld_eq, h, decide_eq_true hk, Bool.true_and]

/-- A byte above 15 is the code of no key, and so is not held (R161). -/
theorem State.keyHeld_of_no_code (s : State) {b : Byte} (h : b.toNat > 15) : s.keyHeld b = false := by
  rw [State.keyHeld_eq, decide_eq_false (Nat.not_le.2 h), Bool.false_and]

/-- A skip of `m` or `n` bytes on `keyHeld`, read at the code of a key and above the codes. -/
theorem exec_skip_on_key {i : Instr} {s : State} {b : Byte} {m n : Nat}
    (h : ∃ t, exec i s = .next t ∧ OnlyPc s t ∧
      t.pc.toNat = (s.pc.toNat + if s.keyHeld b = true then m else n) % 65536) :
    ∃ t, exec i s = .next t ∧ OnlyPc s t ∧
      (∀ k : Key, b.toNat = k.val → t.pc.toNat = (s.pc.toNat + if s.key.getLsbD k.val then m else n) % 65536) ∧
      (b.toNat > 15 → t.pc.toNat = (s.pc.toNat + n) % 65536) := by
  obtain ⟨t, ht, hframe, hpc⟩ := h
  refine ⟨t, ht, hframe, fun k hk => ?_, fun habove => ?_⟩
  · rw [hpc, s.keyHeld_of_code hk]
  · rw [hpc, s.keyHeld_of_no_code habove, if_neg Bool.false_ne_true]

/-- Settles O27: the skips on a held key and on its opposite. -/
theorem skipOnKey : Obligations.SkipOnKey :=
  fun x s => ⟨exec_skip_on_key (exec_skip_of_iff (exec_eq (.skp x) s) Bool.decide_eq_true.symm),
    exec_skip_on_key (exec_skip_of_not (exec_eq (.sknp x) s) (by simp))⟩

/-! ### The key wait -/

/-- Settles O28: the status and PC that Fx0A writes, and the rest as it is. -/
theorem keyWaitBegins : Obligations.KeyWaitBegins :=
  fun x s => ⟨_, exec_eq (.ldVxK x) s, rfl, rfl, rfl, rfl, fun _ => rfl, fun _ => rfl⟩

/-- A key press in the key wait goes to the target and ends the wait (R164). -/
theorem State.keyPress_waiting {s : State} {x : Reg} (k : Key) (h : s.status = .awaitingKey x) :
    s.keyPress k = (s.writeV x (BitVec.ofNat 8 k.val)).setStatus .running := by
  simp only [State.keyPress, h]

/-- Outside the key wait a key press is ignored (R164). -/
theorem State.keyPress_ignored {s : State} (k : Key) (h : s.paused = false) : s.keyPress k = s := by
  cases hst : s.status with
  | running => simp only [State.keyPress, hst]
  | awaitingKey x => simp [State.paused, hst] at h
  | dead e => simp only [State.keyPress, hst]

/-- The code of a key as a byte is the code itself. -/
theorem key_byte_toNat (k : Key) : (BitVec.ofNat 8 k.val).toNat = k.val := by
  rw [BitVec.toNat_ofNat]
  omega

/-- Settles O29: one write of a register and the end of the wait, or nothing. -/
theorem keyPressEndsWait : Obligations.KeyPressEndsWait := by
  intro k s
  refine ⟨fun x hwait => ?_, State.keyPress_ignored k⟩
  rw [State.keyPress_waiting k hwait]
  refine ⟨?target, rfl, rfl, fun r hr => ?others⟩
  case target => rw [State.setStatus_readV, State.writeV_readV, if_pos rfl, key_byte_toNat]
  case others => rw [State.setStatus_readV, State.writeV_readV, if_neg hr]

/-! ### A step in the key wait -/

/-- Where the environment delivers a key, the event of the wait is that press (R191). -/
theorem State.waitStep_press {s : State} {k : Key} (h : Config.keyPress s.draws = some k) :
    s.waitStep = s.countDraw.keyPress k := by
  simp only [State.waitStep, h]

/-- Where it delivers none, the event of the wait is the end of an empty Frame (R188). -/
theorem State.waitStep_frame {s : State} (h : Config.keyPress s.draws = none) :
    s.waitStep = s.countDraw.endFrame := by
  simp only [State.waitStep, h]

/-- In the key wait a Frame is its end alone: every slot is empty (R188). -/
theorem State.frame_waiting {s : State} {x : Reg} (h : s.status = .awaitingKey x) : s.frame = .next s.endFrame := by
  simp only [State.frame, State.frameSlots_waiting _ h, h]

/-- Settles O39: the empty Frame makes the outputs and does not tick (spec decision D5). -/
theorem waitTakesPressOrEmptyFrame : Obligations.WaitTakesPressOrEmptyFrame := by
  intro s x hwait
  have hwait' : s.countDraw.status = .awaitingKey x := hwait
  refine ⟨fun k hk => ?press, fun hnone => ⟨s.countDraw.endFrame, ?step, State.frame_waiting hwait', ?_⟩⟩
  case press => rw [step_waiting hwait, State.waitStep_press hk]
  case step => rw [step_waiting hwait, State.waitStep_frame hnone]
  rw [State.endFrame_waiting hwait']
  exact ⟨decide_eq_true_iff, rfl, rfl⟩

/-! ### The timer registers -/

/-- Settles O30: a result in `V[x]`, and two writes of one timer each. -/
theorem timerRegisterMoves : Obligations.TimerRegisterMoves :=
  fun x s => ⟨exec_result (exec_eq (.ldVxDT x) s),
    ⟨_, exec_eq (.ldDTVx x) s, rfl, rfl, rfl, fun _ => rfl⟩,
    ⟨_, exec_eq (.ldSTVx x) s, rfl, rfl, rfl, fun _ => rfl⟩⟩

/-! ### The events outside the step keep the invariant -/

/-- In the key wait the press ends a wait in which no slot was used; elsewhere it is ignored. -/
theorem State.keyPress_keeps_inv {s : State} (k : Key) (h : s.inv = true) : (s.keyPress k).inv = true := by
  cases hst : s.status with
  | running | dead e => rwa [State.keyPress_ignored k (by simp only [State.paused, hst])]
  | awaitingKey x =>
    obtain ⟨hb, hslot, -⟩ := (State.inv_iff s).1 h
    rw [State.keyPress_waiting k hst]
    exact (State.inv_iff _).2 ⟨hb.congr rfl rfl rfl rfl, hslot, rfl⟩

/-- A tick writes the two timers at most (R186). -/
theorem State.timerTick_frame (s : State) : ∃ dt st, s.timerTick = (s.setDT dt).setST st := by
  unfold State.timerTick
  cases s.status with
  | running | awaitingKey x => exact ⟨_, _, rfl⟩
  | dead e => exact ⟨s.dt, s.st, rfl⟩

/-- The invariant does not read the timers. -/
theorem State.timerTick_keeps_inv {s : State} (h : s.inv = true) : s.timerTick.inv = true := by
  obtain ⟨dt, st, htick⟩ := State.timerTick_frame s
  rw [htick]
  exact h

/-- What a Load can do: nothing to a Dead core, the error of a program too large, or the bytes written from 0x200 on
(R185). -/
theorem State.load_cases (s : State) (bytes : List Byte) :
    (s.alive = false ∧ s.load bytes = s) ∨
      (3584 < bytes.length ∧ s.load bytes = s.raise (.programTooLarge bytes.length)) ∨
      (s.alive = true ∧ bytes.length ≤ 3584 ∧ s.load bytes = s.setMem (s.mem.writeBytes 0x200 bytes)) := by
  cases hst : s.status with
  | dead e => exact .inl (by simp only [State.alive, State.load, hst, and_self])
  | running | awaitingKey x =>
    refine .inr ?_
    simp only [State.alive, State.load, hst, true_and]
    rcases Nat.lt_or_ge 3584 bytes.length with hlong | hfits
    · exact .inl ⟨hlong, if_pos hlong⟩
    · exact .inr ⟨hfits, if_neg (Nat.not_lt.2 hfits)⟩

/-- Of a core that is not Dead the status check does not read memory. -/
theorem State.statusOk_setMem {s : State} (m : Memory) (h : s.alive = true) : (s.setMem m).statusOk = s.statusOk := by
  cases hst : s.status with
  | running | awaitingKey x => simp only [State.statusOk, State.setMem_status, State.setMem_slot, hst]
  | dead e => simp [State.alive, hst] at h

/-- An accepted program ends inside the address space, and the error of a rejected one is true. -/
theorem State.load_keeps_inv {s : State} (bytes : List Byte) (h : s.inv = true) : (s.load bytes).inv = true := by
  obtain ⟨hb, hslot, hok⟩ := (State.inv_iff s).1 h
  rcases State.load_cases s bytes with ⟨-, hl⟩ | ⟨hlong, hl⟩ | ⟨ha, hfits, hl⟩ <;> rw [hl]
  · exact h
  · exact (State.inv_iff _).2
      ⟨hb.congr rfl rfl rfl rfl, hslot, (State.statusOk_raise s _).trans (decide_eq_true hlong)⟩
  · have hmem : (s.mem.writeBytes 0x200 bytes).wf = true :=
      Memory.wf_writeBytes hb.mem (.inr (Nat.add_le_add_left hfits 0x200))
    exact (State.inv_iff _).2 ⟨⟨hmem, hb.pc, hb.stack⟩, hslot, (State.statusOk_setMem _ ha).trans hok⟩

/-- Settles O57, event by event. -/
theorem eventsKeepInvariant : Obligations.EventsKeepInvariant :=
  fun _ h => ⟨fun k => State.keyPress_keeps_inv k h, fun bytes => State.load_keeps_inv bytes h,
    State.timerTick_keeps_inv h⟩

end Sys2Proof.Machine
end

section
/-! PROOFS. Fatal errors and events: how an instruction step kills the core, the absorbing Dead, Load and the tick; the
close of a slot; and the Frame as the steps of the machine. -/

namespace Sys2Proof.Machine

/-! ### The fatal errors of a step -/

theorem State.alive_of_dead {s : State} {e : FatalError} (h : s.status = .dead e) : s.alive = false := by
  simp only [State.alive, h]

/-- An instruction step takes a fatal error from the state before it, or ends alive (R176). -/
theorem State.instrStep_ends (s : State) :
    (∃ e, s.instrStep = .next (s.raise e)) ∨ ∃ t, s.instrStep = .next t ∧ t.alive = true := by
  rcases State.instrStep_cases s with ⟨e, -, h⟩ | ⟨w, r, -, -, h⟩ | ⟨w, i, -, -, h⟩
  · exact .inl ⟨e, h⟩
  · exact .inl ⟨_, h⟩
  · rw [exec_eq] at h
    rcases State.settle_next s (instrAfter i s.sampleKeys) with ⟨e, -, hs⟩ | ⟨ha, hs⟩
    · exact .inl ⟨e, h.trans hs⟩
    · exact .inr ⟨_, h.trans hs, ha⟩

/-- The slot in which a Running core dies is not closed: the Frame is abandoned (R188). -/
theorem step_raise {s : State} {e : FatalError} (hrun : s.status = .running) (h : s.instrStep = .next (s.raise e)) :
    step s = .next (s.raise e) := by
  rw [step_running hrun h, State.closeSlot_dead (State.raise_status s e)]

theorem step_died {s : State} {e : FatalError} (hrun : s.status = .running) (h : s.instrStep = .next (s.raise e)) :
    ∃ t, step s = .next t ∧ Died e s t :=
  ⟨_, step_raise hrun h, State.raise_died s e⟩

/-- Settles O34: a failing fetch and an unknown word are the two deaths before the execute phase. -/
theorem stepDiesOnBadFetchOrWord : Obligations.StepDiesOnBadFetchOrWord := by
  intro s hrun
  refine ⟨fun hpc => ?fetch, fun w r hf hd => ?word⟩
  case fetch =>
    have hf : s.fetch = .error (.memoryOutOfBounds (max s.pc.toNat 4096)) := by
      rw [State.fetch_eq, if_neg (by omega)]
    exact step_died hrun (by simp only [State.instrStep, hf])
  case word => exact step_died hrun (by simp only [State.instrStep, hf, hd])

theorem State.endFrame_alive (s : State) : s.endFrame.alive = s.alive := by
  obtain ⟨dt, st, tone, he⟩ := State.endFrame_frame s
  rw [he]
  rfl

/-- The close of a slot kills nothing (R188). -/
theorem State.closeSlot_alive {t : State} (h : t.alive = true) : t.closeSlot.alive = true := by
  have hend : (t.endFrame.setSlot 0).alive = true := (State.endFrame_alive t).trans h
  cases hst : t.status with
  | dead e => exact nomatch (State.alive_of_dead hst).symm.trans h
  | awaitingKey x => rwa [State.closeSlot_waiting hst]
  | running =>
    by_cases hk : t.slot + 1 < 10
    · rw [State.closeSlot_next hst hk]; exact h
    · rwa [State.closeSlot_last hst (Nat.le_of_not_lt hk)]

/-- No event of the key wait kills the core (R191). -/
theorem State.waitStep_alive {s : State} {x : Reg} (h : s.status = .awaitingKey x) : s.waitStep.alive = true := by
  have hwait : s.countDraw.status = .awaitingKey x := h
  cases hk : Config.keyPress s.draws with
  | some k => rw [State.waitStep_press hk, State.keyPress_waiting k hwait]; rfl
  | none => rw [State.waitStep_frame hk, State.endFrame_alive]; simp only [State.alive, hwait]

/-- A step takes a fatal error from the state before it, or ends alive (R176). -/
theorem step_ends {s t : State} (h : step s = .next t) : (∃ e, t = s.raise e) ∨ t.alive = true := by
  cases hst : s.status with
  | dead e => exact nomatch (step_dead hst).symm.trans h
  | awaitingKey x =>
    obtain rfl := Host.Outcome.next.inj ((step_waiting hst).symm.trans h)
    exact .inr (State.waitStep_alive hst)
  | running =>
    rcases State.instrStep_ends s with ⟨e, hi⟩ | ⟨u, hi, ha⟩
    · exact .inl ⟨e, Host.Outcome.next.inj (h.symm.trans (step_raise hst hi))⟩
    · obtain rfl := Host.Outcome.next.inj ((step_running hst hi).symm.trans h)
      exact .inr (State.closeSlot_alive ha)

/-- Settles O35: of the two ends of a step only the error taken from the state before it is Dead. -/
theorem fatalErrorsArePrecise : Obligations.FatalErrorsArePrecise := by
  intro s t e h hdead
  rcases step_ends h with ⟨e', rfl⟩ | ha
  · obtain rfl : e' = e := Status.dead.inj hdead
    exact State.raise_died s e'
  · exact nomatch (State.alive_of_dead hdead).symm.trans ha

/-! ### Dead and Reset -/

theorem State.timerTick_dead {s : State} (h : s.alive = false) : s.timerTick = s := by
  cases hst : s.status with
  | dead e => simp only [State.timerTick, hst]
  | running | awaitingKey x => simp [State.alive, hst] at h

/-- A Dead core leaves every slot of a Frame empty and makes no outputs (R188). -/
theorem State.frame_dead {s : State} {e : FatalError} (h : s.status = .dead e) : s.frame = .next s := by
  simp only [State.frame, State.frameSlots_dead _ h, h]

theorem State.load_dead {s : State} {e : FatalError} (bytes : List Byte) (h : s.status = .dead e) :
    s.load bytes = s := by
  simp only [State.load, h]

/-- Settles O37: each event by its own law of the Dead core, and Reset by its definition. -/
theorem deadIsAbsorbing : Obligations.DeadIsAbsorbing := by
  refine ⟨fun s e h => ⟨step_dead h, State.frame_dead h, State.timerTick_dead (State.alive_of_dead h), fun k => ?_,
    fun bytes => State.load_dead bytes h⟩, fun s => ⟨rfl, rfl, fun _ => rfl, rfl⟩⟩
  exact State.keyPress_ignored k (by simp only [State.paused, h])

/-! ### Load -/

/-- Settles O54: the two arms of `State.load_cases` that a core which is not Dead can take. -/
theorem loadPlacesProgram : Obligations.LoadPlacesProgram := by
  intro bytes s ha
  rcases State.load_cases s bytes with ⟨hdead, -⟩ | ⟨hlong, hl⟩ | ⟨-, hfits, hl⟩
  · exact nomatch hdead.symm.trans ha
  · exact ⟨fun h => by omega, fun _ => hl ▸ State.raise_died s _⟩
  · rw [hl]
    refine ⟨fun _ => ⟨fun k hk => ?inside, fun a hout => ?outside, rfl⟩, fun h => by omega⟩
    all_goals rw [State.setMem_readByte, Memory.read_writeBytes]
    case inside => rw [if_pos (by omega), Nat.add_sub_cancel_left]
    case outside => rw [if_neg (by omega)]; rfl

/-! ### The timer tick -/

theorem State.timerTick_alive {s : State} (h : s.alive = true) :
    s.timerTick = (s.setDT (countDown s.dt)).setST (countDown s.st) := by
  cases hst : s.status with
  | dead e => exact nomatch (State.alive_of_dead hst).symm.trans h
  | running | awaitingKey x => simp only [State.timerTick, hst]

/-- `k` ticks of one timer take it down by `k`, floored at zero (R186). -/
theorem countDown_iterate_toNat (k : Nat) (b : Byte) : (countDown^[k] b).toNat = b.toNat - k := by
  induction k generalizing b with
  | zero => rfl
  | succ k ih => rw [Function.iterate_succ_apply, ih, countDown_toNat, Nat.sub_sub, Nat.add_comm]

/-- `k` ticks of a core that is not Dead are `k` ticks of each timer. -/
theorem State.timerTick_iterate {s : State} (h : s.alive = true) (k : Nat) :
    State.timerTick^[k] s = (s.setDT (countDown^[k] s.dt)).setST (countDown^[k] s.st) := by
  induction k generalizing s with
  | zero => rfl
  | succ k ih =>
    have ha : ((s.setDT (countDown s.dt)).setST (countDown s.st)).alive = true := h
    rw [Function.iterate_succ_apply, State.timerTick_alive h, ih ha]
    rfl

/-- Settles O31: the timers of a core that is not Dead count down apart, and a Dead core is a fixed point. -/
theorem timersCountDownToZero : Obligations.TimersCountDownToZero := by
  intro k s
  cases ha : s.alive with
  | true =>
    rw [State.timerTick_iterate ha]
    exact ⟨fun _ => ⟨countDown_iterate_toNat k s.dt, countDown_iterate_toNat k s.st⟩, fun h => (nomatch h), rfl⟩
  | false =>
    rw [Function.iterate_fixed (State.timerTick_dead ha)]
    exact ⟨fun h => (nomatch h), fun _ => rfl, rfl⟩

/-! ### The close of a slot -/

/-- Settles O38: the three closes of the slot of a core that is not Dead. -/
theorem slotsCloseAsTheFrameSays : Obligations.SlotsCloseAsTheFrameSays := by
  intro s t hrun hi
  rw [step_running hrun hi]
  refine ⟨fun hst hk => ?next, fun hst hk => ⟨_, rfl, ?last⟩, fun x hst => ⟨_, rfl, ?wait⟩⟩
  case next => rw [State.closeSlot_next hst hk]
  case last =>
    rw [State.closeSlot_last hst hk, State.endFrame_running hst]
    have htone : (countDown t.st).toNat > 0 ↔ t.st.toNat > 1 := by rw [countDown_toNat]; omega
    exact ⟨countDown_toNat t.dt, countDown_toNat t.st, decide_eq_true_iff.trans htone, rfl, rfl, rfl⟩
  case wait =>
    rw [State.closeSlot_waiting hst, State.endFrame_waiting hst]
    exact ⟨decide_eq_true_iff, rfl, rfl, rfl⟩

/-! ### The Frame as steps of the machine -/

/-- What follows the slots of a Frame: its end, or nothing when a slot killed the core (R188). -/
def State.closeFrame (t : State) : State := if t.alive then t.endFrame else t

theorem State.frame_of_slots {s t : State} (h : State.frameSlots 10 s = .next t) : s.frame = .next t.closeFrame := by
  simp only [State.frame, Config.speed, h, State.closeFrame]
  cases hst : t.status <;> simp [State.alive, hst]

/-- A core that is not Running leaves the slots of a Frame empty (R188). -/
theorem State.frameSlots_stopped (n : Nat) {s : State} (h : s.status ≠ .running) :
    State.frameSlots n s = .next s := by
  cases hst : s.status with
  | running => exact absurd hst h
  | awaitingKey x => exact State.frameSlots_waiting n hst
  | dead e => exact State.frameSlots_dead n hst

/-- A slot that finds the core Running is one instruction step (R188). -/
theorem State.frameSlots_running (n : Nat) {s t : State} (hrun : s.status = .running) (h : s.instrStep = .next t) :
    State.frameSlots (n + 1) s = State.frameSlots n t := by
  simp only [State.frameSlots, hrun, h]

/-- The end of a Frame does not read the position inside it (log entry 1). -/
theorem State.endFrame_setSlot (t : State) (k : Nat) : (t.setSlot k).endFrame = t.endFrame.setSlot k := by
  have hst' : (t.setSlot k).status = t.status := rfl
  cases hst : t.status with
  | running => rw [State.endFrame_running hst, State.endFrame_running (hst'.trans hst)]; rfl
  | awaitingKey x => rw [State.endFrame_waiting hst, State.endFrame_waiting (hst'.trans hst)]; rfl
  | dead e => rw [State.endFrame_dead hst, State.endFrame_dead (hst'.trans hst)]; rfl

theorem State.closeFrame_setSlot {t : State} (h : t.alive = true) (k : Nat) :
    (t.setSlot k).closeFrame = t.endFrame.setSlot k :=
  (if_pos h).trans (State.endFrame_setSlot t k)

/-- `k` steps from `s` reach the state in which a Frame with the slots ended in `t` is closed, at the start of the next
Frame where the core is not Dead. -/
def ClosesFrame (k : Nat) (s t : State) : Prop :=
  ∃ g, core.run k s = .next g ∧ g.setSlot 0 = t.closeFrame ∧ (g.alive = true → g.slot = 0)

/-- One more step before the steps that close the Frame. -/
theorem ClosesFrame.cons {k : Nat} {s s' t : State} (h : step s = .next s') (hc : ClosesFrame k s' t) :
    ClosesFrame (k + 1) s t := by
  obtain ⟨g, hrun, hclose⟩ := hc
  exact ⟨g, (run_succ k h).trans hrun, hclose⟩

/-- A slot that leaves no further slot to the core closes the Frame with its own step. -/
theorem ClosesFrame.of_last {s u : State} (h : step s = .next u.closeSlot)
    (hlast : u.status = .running → 10 ≤ u.slot + 1) : ClosesFrame 1 s (u.setSlot 0) := by
  have hend (ha : u.alive = true) (hu : u.closeSlot = u.endFrame.setSlot 0) : ClosesFrame 1 s (u.setSlot 0) :=
    ⟨_, run_succ 0 (h.trans (congrArg _ hu)), (State.closeFrame_setSlot ha 0).symm, fun _ => rfl⟩
  cases hst : u.status with
  | running => exact hend (by simp only [State.alive, hst]) (State.closeSlot_last hst (hlast hst))
  | awaitingKey x => exact hend (by simp only [State.alive, hst]) (State.closeSlot_waiting hst)
  | dead e =>
    have hd : u.alive = false := State.alive_of_dead hst
    rw [State.closeSlot_dead hst] at h
    exact ⟨u, run_succ 0 h, (if_neg (ne_true_of_eq_false hd)).symm, fun ha => nomatch hd.symm.trans ha⟩

/-- A slot of a Running core: the Frame's next slots and the step go on from one state, since an instruction
step does not read the position (log entry 1). -/
theorem step_matches_frameSlots {s : State} (n : Nat) (hrun : s.status = .running) :
    ∃ u : State, State.frameSlots (n + 1) (s.setSlot 0) = State.frameSlots n (u.setSlot 0) ∧
      step s = .next u.closeSlot ∧ u.slot = s.slot := by
  obtain ⟨u, hu, hu0, hslot⟩ := State.instrStep_setSlot s 0
  exact ⟨u, State.frameSlots_running n hrun hu0, step_running hrun hu, hslot⟩

/-- The steps of a Running core with `n + 1` slots of its Frame to come make those slots and their close. -/
theorem run_closesFrame (n : Nat) {s : State} (hrun : s.status = .running) (hslot : s.slot + (n + 1) = 10) :
    ∃ k t, 1 ≤ k ∧ k ≤ n + 1 ∧ State.frameSlots (n + 1) (s.setSlot 0) = .next t ∧ ClosesFrame k s t := by
  induction n generalizing s with
  | zero =>
    obtain ⟨u, hslots, hstep, hu⟩ := step_matches_frameSlots 0 hrun
    exact ⟨1, _, le_refl 1, le_refl 1, hslots, .of_last hstep fun _ => by omega⟩
  | succ n ih =>
    obtain ⟨u, hslots, hstep, hu⟩ := step_matches_frameSlots (n + 1) hrun
    by_cases hgo : u.status = .running
    · have hnext : step s = .next (u.setSlot (u.slot + 1)) := by
        rw [hstep, State.closeSlot_next hgo (by omega)]
      have hgo' : (u.setSlot (u.slot + 1)).status = .running := hgo
      have hslot' : (u.setSlot (u.slot + 1)).slot + (n + 1) = 10 := by rw [State.setSlot_slot]; omega
      obtain ⟨k, t, -, hk, ht, hc⟩ := ih hgo' hslot'
      exact ⟨k + 1, t, Nat.le_add_left 1 k, Nat.succ_le_succ hk, hslots.trans ht, hc.cons hnext⟩
    · have hstop : State.frameSlots (n + 1) (u.setSlot 0) = .next (u.setSlot 0) := State.frameSlots_stopped _ hgo
      exact ⟨1, _, le_refl 1, Nat.le_add_left 1 _, hslots.trans hstop, .of_last hstep fun h => absurd h hgo⟩

/-- Settles O40: the ten slots of `run_closesFrame` from position 0. -/
theorem stepsMakeTheFrame : Obligations.StepsMakeTheFrame := by
  intro s hrun hslot
  have hs : s.setSlot 0 = s := hslot ▸ rfl
  obtain ⟨k, t, h1, h10, hslots, g, hg, hclose, halive⟩ := run_closesFrame 9 hrun (by omega)
  rw [hs] at hslots
  refine ⟨k, _, g, h1, h10, State.frame_of_slots hslots, hg, hclose, fun ha => ⟨halive ha, ?_⟩⟩
  have hg0 : g.setSlot 0 = g := halive ha ▸ rfl
  rw [← hclose, hg0]

/-! ### The jump to self -/

/-- Settles O41: the one field that a jump writes keeps its value. -/
theorem jumpToSelfChangesNothing : Obligations.JumpToSelfChangesNothing := by
  intro nnn s h
  have hpc : zext16OfAddr nnn = s.pc := BitVec.eq_of_toNat_eq ((zext16OfAddr_toNat nnn).trans h.symm)
  rw [exec_eq, instrAfter_none rfl, instrEffect, hpc]
  rfl

end Sys2Proof.Machine
end
